-- ==== Sys2Proof/Word.lean ====
section
/-! DEFINITION. The value types of the core (00_scope.md R7): bytes, Words, 32-bit registers and fields,
12-bit samples and int16 block cells. -/

namespace Sys2Proof

/-- One byte of the input, and one entry of a permutation table (R32, R80). -/
abbrev Byte := BitVec 8

/-- "A Word is unsigned, 16 bits" (R7, R12). -/
abbrev Word := BitVec 16

/-- A host-visible register, REGW = 32 (R5, R21), and a 32-bit header field (R72). -/
abbrev Reg32 := BitVec 32

/-- A register number, 0x00 to 0xFF (R21, R37). -/
abbrev RegNum := BitVec 8

/-- One channel value, SAMPLE_BITS = 12 (R5, R76). -/
abbrev Sample := BitVec 12

/-- One int16 element of BLOCK (R36, R79). -/
abbrev Cell16 := BitVec 16

/-- One row of a Block(32): the 32 values UNPACK_ROW gives (R137). -/
abbrev SampleRow := List Sample

/-- One row of a Block(128) (R150). -/
abbrev BlockRow := List Cell16

end Sys2Proof
end

