-- ==== Sys2Proof/Syntax.lean ====
section
/-! DEFINITION. The operations of the block, one constructor per row of the opcode table (00_scope.md R6), and
the requests the core can be handed: host accesses in the script notation of 30_encoding.md R88, the external
reset, and a unit operation run on its own (log entry 3). -/

namespace Sys2Proof

/-- The 16 operations of 00_scope.md R6.  The first four are the commands the host issues by writing CMD and have no
operand field (R82); the other twelve are the unit operations, with the operands their rules name.  An operand that
a rule takes from transient state (the link buffer, the four decoded links, the assembled block, R40) is no operand
here: it stands in `State.work`. -/
inductive Instr where
  /-- NOP, code 0x00 (R170). -/
  | nop
  /-- CONFIGURE, code 0x01 (R171). -/
  | configure
  /-- DECODE, code 0x02 (R172). -/
  | decode
  /-- POLL, code 0x03 (R175). -/
  | poll
  /-- READ_WORD(i): the Word at word index `i` of BYTEBUF (R100). -/
  | readWord (i : Nat)
  /-- FIELD32(k): the 32-bit field at word position `k` of WORDS (R101). -/
  | field32 (k : Nat)
  /-- SEEK_NEXT(pos): the end of the package that starts at `pos` (R110). -/
  | seekNext (pos : Nat)
  /-- APPEND(s, e, buf): copy the payload `W[s:e]` to the link buffer (R120). -/
  | append (start stop : Nat)
  /-- MAKE_LINK(pos): assemble one link from `pos` on (R122). -/
  | makeLink (pos : Nat)
  /-- ROW_COUNT(buf): complete rows of the link buffer (R125). -/
  | rowCount
  /-- UNPACK_GROUP(w0, w1, w2): four samples from three Words (R135). -/
  | unpackGroup (w0 w1 w2 : Word)
  /-- UNPACK_ROW(row): 32 samples from 25 Words (R137). -/
  | unpackRow (row : List Word)
  /-- UNPACK_LINK(buf): all rows of the link buffer (R139), stored as `rows[i]` of R40. -/
  | unpackLink (i : Fin 4)
  /-- ASSEMBLE(rows0, rows1, rows2, rows3): the 128-column block (R150). -/
  | assemble
  /-- VERIFY_TABLE(t): is PERM a bijection onto 1 to 128? (R160). -/
  | verifyTable
  /-- REMAP(blk): reorder the columns by PERM_ACT (R161). -/
  | remap
  deriving DecidableEq, Repr

/-- The five storage arrays, each its own index space (20_memory.md R50). -/
inductive Space where
  | bytebuf
  | words
  | perm
  | permAct
  | block
  deriving DecidableEq, Repr

/-- The twelve unit operations, by name: 30_encoding.md R82 gives them no code. -/
inductive UnitOp where
  | readWord
  | field32
  | seekNext
  | append
  | makeLink
  | rowCount
  | unpackGroup
  | unpackRow
  | unpackLink
  | assemble
  | verifyTable
  | remap
  deriving DecidableEq, Repr

/-- A stand-alone unit operation before it is decoded (log entry 3): its name, its positional operands and the
stream Words that are its operands.  DESIGN CHOICE: the spec gives unit operations no form of their own. -/
structure UnitFrame where
  op : UnitOp
  args : List Nat
  words : List Word
  deriving DecidableEq, Repr

/-- What the decoder reads: the 32-bit value of a write to CMD (R22, R82), or a unit frame. -/
inductive Encoded where
  | cmd (v : Reg32)
  | unit (f : UnitFrame)
  deriving DecidableEq, Repr

/-- One host access: a line of a host script (30_encoding.md R88). `cmd NAME` is `wr CMD, code`. -/
inductive Access where
  /-- `wr REG, value`. -/
  | wr (reg : RegNum) (value : Reg32)
  /-- `rd REG`. -/
  | rd (reg : RegNum)
  /-- `wrm SPACE[index], value`; only BYTEBUF and PERM are writable, and their elements are bytes (R32, R34). -/
  | wrm (space : Space) (index : Nat) (value : Byte)
  /-- `rdm SPACE[index]`. -/
  | rdm (space : Space) (index : Nat)
  deriving DecidableEq, Repr

/-- What can reach the core between two of its steps: a host access (R20, R38), the external reset (R220), a
stand-alone unit operation (log entry 3). -/
inductive Request where
  | access (a : Access)
  | reset
  | unit (f : UnitFrame)
  deriving DecidableEq, Repr

end Sys2Proof
end

