-- ==== Sys2Proof/WellFormed.lean ====
section
/-! DEFINITION. Which operations are well formed: the operand domains that hold in every state
(40_wordreader.md R100, R101; 42_linkassembler.md R120; 43_sampleunpacker.md R137).  A domain that depends on the
state (an index below the present NWORDS) is no matter of form: log entry 7. -/

namespace Sys2Proof

/-- The largest NWORDS there can be: "N <= 2^31 - 1" (10_state.md R26). -/
def maxWords : Nat := 2 ^ 31 - 1

/-- Operands every rule's "Operands" line admits for some state of the core. -/
def wellFormed : Instr → Bool
  | .nop => true
  | .configure => true
  | .decode => true
  | .poll => true
  | .readWord i => decide (i < maxWords)
  | .field32 k => decide (k + 1 < maxWords)
  | .seekNext _ => true
  | .append start stop => decide (start ≤ stop) && decide (stop ≤ maxWords)
  | .makeLink _ => true
  | .rowCount => true
  | .unpackGroup _ _ _ => true
  | .unpackRow row => decide (row.length = 25)
  | .unpackLink _ => true
  | .assemble => true
  | .verifyTable => true
  | .remap => true

end Sys2Proof
end

