-- ==== Sys2Proof/Decode.lean ====
section
/-! DEFINITION. The decoder, total on every value written to CMD and on every unit frame, the encoder after it, and
the reading of the opcode table's bit patterns (30_encoding.md R70 to R82; log entry 6). -/

namespace Sys2Proof

/-- What the decoder answers. -/
inductive Decoded where
  /-- an operation of the table -/
  | instr (i : Instr)
  /-- a reserved command code, 0x04 to 0xFF (R83) -/
  | reserved (code : Byte)
  /-- a unit frame whose operands are not of the operation's shape -/
  | badOperands (op : UnitOp)
  deriving DecidableEq, Repr

/-- The command selected by bits 7:0 of a value written to CMD; bits 31:8 are ignored (R22, R82, R83). -/
def decodeCmd (v : Reg32) : Decoded :=
  match v.toNat % 256 with
  | 0 => .instr .nop
  | 1 => .instr .configure
  | 2 => .instr .decode
  | 3 => .instr .poll
  | c => .reserved (BitVec.ofNat 8 c)

/-- The unit operation a frame stands for (log entry 3). -/
def decodeUnit (f : UnitFrame) : Decoded :=
  match f.op with
  | .readWord =>
    match f.args, f.words with
    | [x], [] => .instr (.readWord x)
    | _, _ => .badOperands .readWord
  | .field32 =>
    match f.args, f.words with
    | [x], [] => .instr (.field32 x)
    | _, _ => .badOperands .field32
  | .seekNext =>
    match f.args, f.words with
    | [x], [] => .instr (.seekNext x)
    | _, _ => .badOperands .seekNext
  | .append =>
    match f.args, f.words with
    | [start, stop], [] => .instr (.append start stop)
    | _, _ => .badOperands .append
  | .makeLink =>
    match f.args, f.words with
    | [x], [] => .instr (.makeLink x)
    | _, _ => .badOperands .makeLink
  | .rowCount =>
    match f.args, f.words with
    | [], [] => .instr .rowCount
    | _, _ => .badOperands .rowCount
  | .unpackGroup =>
    match f.args, f.words with
    | [], [w0, w1, w2] => .instr (.unpackGroup w0 w1 w2)
    | _, _ => .badOperands .unpackGroup
  | .unpackRow =>
    match f.args with
    | [] => if f.words.length = 25 then .instr (.unpackRow f.words) else .badOperands .unpackRow
    | _ => .badOperands .unpackRow
  | .unpackLink =>
    match f.args, f.words with
    | [x], [] => if h : x < 4 then .instr (.unpackLink ⟨x, h⟩) else .badOperands .unpackLink
    | _, _ => .badOperands .unpackLink
  | .assemble =>
    match f.args, f.words with
    | [], [] => .instr .assemble
    | _, _ => .badOperands .assemble
  | .verifyTable =>
    match f.args, f.words with
    | [], [] => .instr .verifyTable
    | _, _ => .badOperands .verifyTable
  | .remap =>
    match f.args, f.words with
    | [], [] => .instr .remap
    | _, _ => .badOperands .remap

/-- The decoder. -/
def decode : Encoded → Decoded
  | .cmd v => decodeCmd v
  | .unit f => decodeUnit f

/-- The encoder: a command's code with zeros above it (R82), a unit operation's frame. -/
def encode : Instr → Encoded
  | .nop => .cmd 0x00#32
  | .configure => .cmd 0x01#32
  | .decode => .cmd 0x02#32
  | .poll => .cmd 0x03#32
  | .readWord i => .unit ⟨.readWord, [i], []⟩
  | .field32 k => .unit ⟨.field32, [k], []⟩
  | .seekNext pos => .unit ⟨.seekNext, [pos], []⟩
  | .append start stop => .unit ⟨.append, [start, stop], []⟩
  | .makeLink pos => .unit ⟨.makeLink, [pos], []⟩
  | .rowCount => .unit ⟨.rowCount, [], []⟩
  | .unpackGroup w0 w1 w2 => .unit ⟨.unpackGroup, [], [w0, w1, w2]⟩
  | .unpackRow row => .unit ⟨.unpackRow, [], row⟩
  | .unpackLink i => .unit ⟨.unpackLink, [i.val], []⟩
  | .assemble => .unit ⟨.assemble, [], []⟩
  | .verifyTable => .unit ⟨.verifyTable, [], []⟩
  | .remap => .unit ⟨.remap, [], []⟩

/-- The `count` Words of a table pattern of `16 * count` bits, "first bit in the stream leftmost": the first Word of
the stream is the most significant (opcode_table.json; log entry 6). -/
def streamWords (count w : Nat) : List Word :=
  (List.range count).map fun j => BitVec.ofNat 16 (w / 2 ^ (16 * (count - 1 - j)))

/-- The request a table pattern of `nbits` bits stands for (log entry 6).  A unit row's pattern is the stream data
the operation consumes; the operation is taken at position 0 of the array that holds that data.  Where two rows
share a width the more specific pattern comes first: the codes of CMD8 (R82), then QUIRK (R75), then FIELD32 (R72);
the cell of BLOCK with its four zero bits (R79), then WORD (R71); a legal entry of PERMENT for REMAP, an illegal one
for VERIFY_TABLE, which alone may meet it (R80); whole rows for UNPACK_LINK, any other buffer for ROW_COUNT (R78).
DESIGN CHOICE (log entry 6): a pattern read as UNPACK_LINK fills `rows[0]`, since R139 gives it no link number. -/
def encodedOfBits (nbits w : Nat) : Option Encoded :=
  match nbits with
  | 8 => if 1 ≤ w ∧ w ≤ 128 then some (encode .remap) else some (encode .verifyTable)
  | 16 => if w < 4096 then some (encode .assemble) else some (encode (.readWord 0))
  | 32 =>
    if w % 256 < 4 then some (.cmd (BitVec.ofNat 32 w))
    else if w = 0x0000FACE ∨ w = 0x0000FEED then some (encode (.append 0 2))
    else some (encode (.field32 0))
  | 48 => some (.unit ⟨.unpackGroup, [], streamWords 3 w⟩)
  | 64 => some (encode (.seekNext 0))
  | 65 => some (encode (.makeLink 0))
  | 72 => some (encode (.makeLink 0))
  | 400 => some (.unit ⟨.unpackRow, [], streamWords 25 w⟩)
  | n =>
    if n % 400 = 0 ∧ 0 < n then some (encode (.unpackLink 0))
    else if n % 16 = 0 ∧ 64 < n then some (encode .rowCount)
    else none

/-- The instruction the decoder reads from a table pattern. -/
def decodeTableWord (nbits w : Nat) : Option Instr :=
  match encodedOfBits nbits w with
  | none => none
  | some e =>
    match decode e with
    | .instr i => some i
    | .reserved _ => none
    | .badOperands _ => none

end Sys2Proof
end

