-- ==== Sys2Proof/Config.lean ====
section
/-! DEFINITION. What an implementation fixes (00_scope.md R5) and the free values (10_state.md R41, R42). -/

namespace Sys2Proof.Config

/-- BYTEBUF_CAP less one; no value of it can be proved (log entry 5). -/
opaque bytebufCapPred : Fin 4294967295

/-- BYTEBUF_CAP: "natural, 1 to 2^32 - 1", "none supplied" (92_eei_decisions.md D5, open parameters; R5). -/
def bytebufCap : Nat := bytebufCapPred.val + 1

/-- What an element the spec calls unspecified reads as: "any value, and two reads of the same element may differ"
(R42).  A free value of the draw, the array and the index (log entry 2). -/
opaque unspecified (draw : Nat) (space : Space) (index : Nat) : BitVec 16

/-- SYNC_A (R5). -/
def syncA : Word := 0xFACE#16

/-- SYNC_B (R5). -/
def syncB : Word := 0xFEED#16

/-- FILL (R5, R151). -/
def fill : Cell16 := 0#16

end Sys2Proof.Config
end

