-- ==== Sys2Proof/Machine/State.lean ====
section
/-! DEFINITION. The state of the core (10_state.md), its reset (R41, R220), and the reasons a step can stop. -/

namespace Sys2Proof.Machine

/-- There is no fault: "A fault in the processor sense, and a `stuck` state, do not exist in this block"
(93_implementation_defined.md, part 2).  Every condition is an outcome (R190), so no step raises one, which is safe:
no behaviour of the core is cut off by a fault. -/
inductive Fault where
  deriving DecidableEq, Repr

/-- Why a step answers no next state though nothing is wrong with the core. -/
inductive Refusal where
  /-- Raised by the dispatch for an instruction that has no meaning yet; safe, nothing can be proved of it. -/
  | notModelled (mnemonic : String)
  /-- Raised by a host access to an element outside an array: "the spec gives it no effect and a model refuses it"
  (R38, U29); safe. -/
  | outsideArray (space : Space) (index : Nat)
  /-- Raised by a stand-alone unit operation whose frame is not of its operation's shape (log entry 3); safe. -/
  | undecodable (op : UnitOp)
  /-- Raised by a stand-alone unit operation whose operands lie outside its rule's domain in every state
  (`wellFormed`, log entry 7); safe. -/
  | illFormed (i : Instr)
  deriving DecidableEq, Repr

/-- STATUS, register 0x01 (R23): its three sticky flags.  Bits 31:3 are reserved, read 0 and hold nothing. -/
structure Status where
  configured : Bool
  fatal : Bool
  done : Bool
  deriving DecidableEq, Repr

/-- The outcome codes (R84, R190).  Code 7 is "never written" and has no name (U27). -/
inductive OutcomeCode where
  | none
  | block
  | endOfData
  | corruptStream
  | shortRead
  | exceededMaxRows
  | configurationError
  deriving DecidableEq, Repr

/-- The per-link codes of LINKSTAT (R31).  Code 3 is "reserved and never written" and has no name (U27). -/
inductive LinkStat where
  | notRun
  | complete
  | truncated
  deriving DecidableEq, Repr

/-- One value for each of the four links (R30, R31, R40). -/
structure PerLink (α : Type) where
  l0 : α
  l1 : α
  l2 : α
  l3 : α
  deriving DecidableEq, Repr

/-- What SEEK_NEXT returns (R110). -/
inductive SeekResult where
  | packageEnd (k : Nat)
  | endOfData
  | corruptStream
  deriving DecidableEq, Repr

/-- The outcome of MAKE_LINK (R122). -/
inductive LinkOutcome where
  | complete
  | truncated
  | corrupt
  | exceeded
  deriving DecidableEq, Repr

/-- What MAKE_LINK returns: the tuple `(buf, next_pos, fail_pos, out)` of R122. -/
structure LinkResult where
  buf : List Word
  next : Nat
  fail : Nat
  out : LinkOutcome
  deriving DecidableEq, Repr

/-- What UNPACK_GROUP returns: `(a, b, c, d)`, a the lowest channel (R135). -/
structure Group where
  a : Sample
  b : Sample
  c : Sample
  d : Sample
  deriving DecidableEq, Repr

/-- The transient working state that unit operations hand to each other, and the value each of them returned last
(R40; log entry 3).  "none exists between commands" (R41): every command that runs leaves it empty. -/
structure Work where
  /-- the link buffer `buf` (R40, R120) -/
  buf : List Word
  /-- the decoded links `rows[0..3]` (R40, R139) -/
  rows : PerLink (List SampleRow)
  /-- the block `blk` before it is stored (R150, R161) -/
  blk : List BlockRow
  /-- result of READ_WORD (R100) -/
  word : Word
  /-- result of FIELD32 (R101) -/
  field : Reg32
  /-- result of SEEK_NEXT (R110) -/
  seek : Option SeekResult
  /-- result of MAKE_LINK (R122) -/
  link : Option LinkResult
  /-- result of ROW_COUNT (R125) -/
  count : Nat
  /-- result of UNPACK_GROUP (R135) -/
  group : Group
  /-- result of UNPACK_ROW (R137) -/
  row : SampleRow
  /-- result of VERIFY_TABLE (R160) -/
  verified : Option Bool
  deriving DecidableEq, Repr

/-- The state of the block: the register file of R21, the five arrays of R50, the transient state of R40, and the
model's own fields `pending`, `readData` and `draws`. -/
structure State where
  /-- STATUS, 0x01 (R23) -/
  status : Status
  /-- OUTCOME, 0x02 (R24) -/
  outcome : OutcomeCode
  /-- CTRL bit 0 REMAP_EN, 0x03 (R25) -/
  remapEn : Bool
  /-- NBYTES, 0x04 (R26) -/
  nbytes : Reg32
  /-- NWORDS, 0x05 (R26) -/
  nwords : Reg32
  /-- CURSOR, 0x06 (R27) -/
  cursor : Reg32
  /-- NOMINAL, 0x07 (R28) -/
  nominal : Reg32
  /-- MAX_ROWS, 0x08 (R29) -/
  maxRows : Reg32
  /-- NROWS, 0x09 (R30) -/
  nrows : Reg32
  /-- LINK_ROWS[0..3], 0x0A to 0x0D (R30) -/
  linkRows : PerLink Reg32
  /-- LINKSTAT, 0x0E (R31) -/
  linkStat : PerLink LinkStat
  /-- BYTEBUF (R32): the elements written since reset, as cells in rising order of index -/
  bytebuf : List Host.Cell
  /-- WORDS (R33): W[0], W[1], …; an element outside the list is unspecified -/
  words : List Word
  /-- PERM (R34): the elements written since reset, as cells in rising order of index -/
  perm : List Host.Cell
  /-- PERM_ACT (R35): entries 0, 1, …; an element outside the list is unspecified -/
  permAct : List Byte
  /-- BLOCK (R36): its rows; an element outside them is unspecified -/
  block : List BlockRow
  /-- transient working state (R40) -/
  work : Work
  /-- MODEL: the requests not yet served, first to be served first (log entry 1) -/
  pending : List Request
  /-- MODEL: what the host's last read returned (log entry 4) -/
  readData : Reg32
  /-- MODEL: the index of the free values drawn in this step (log entry 2) -/
  draws : Nat
  deriving DecidableEq, Repr

/-- What a step, and the meaning of an operation, answers. -/
abbrev Result := Host.Outcome State Fault Refusal

/-- The same value for every link. -/
def PerLink.const {α : Type} (x : α) : PerLink α := ⟨x, x, x, x⟩

/-- The value of link `i`. -/
def PerLink.get {α : Type} (p : PerLink α) : Fin 4 → α
  | 0 => p.l0
  | 1 => p.l1
  | 2 => p.l2
  | 3 => p.l3

/-- Replace the value of link `i`. -/
def PerLink.set {α : Type} (p : PerLink α) (i : Fin 4) (x : α) : PerLink α :=
  match i with
  | 0 => { p with l0 := x }
  | 1 => { p with l1 := x }
  | 2 => { p with l2 := x }
  | 3 => { p with l3 := x }

/-- No transient state: nothing buffered, no result (R41; the values of results are log entry 3). -/
def Work.empty : Work where
  buf := []
  rows := PerLink.const []
  blk := []
  word := 0#16
  field := 0#32
  seek := none
  link := none
  count := 0
  group := ⟨0#12, 0#12, 0#12, 0#12⟩
  row := []
  verified := none

/-- STATUS with no flag set (R23). -/
def Status.clear : Status := ⟨false, false, false⟩

/-- The machine right after reset (R41, R220): "all registers 0", "the five storage arrays unspecified", "no
transient state".  No request is pending (log entry 1). -/
def State.reset : State where
  status := Status.clear
  outcome := .none
  remapEn := false
  nbytes := 0#32
  nwords := 0#32
  cursor := 0#32
  nominal := 0#32
  maxRows := 0#32
  nrows := 0#32
  linkRows := PerLink.const 0#32
  linkStat := PerLink.const .notRun
  bytebuf := []
  words := []
  perm := []
  permAct := []
  block := []
  work := Work.empty
  pending := []
  readData := 0#32
  draws := 0

end Sys2Proof.Machine
end

