-- ==== Sys2Proof/Machine/Flags.lean ====
section
/-! DEFINITION. The status flags, the outcome code and the per-link codes as the host reads them
(10_state.md R23, R24, R31; 30_encoding.md R84), and the flag changes the commands make. -/

namespace Sys2Proof.Machine

/-- STATUS as a register: CONFIGURED, FATAL, DONE in bits 0, 1, 2; "bits 31:3: reserved, read 0" (R23). -/
def Status.toReg (f : Status) : Reg32 :=
  BitVec.ofNat 32 (f.configured.toNat + 2 * f.fatal.toNat + 4 * f.done.toNat)

/-- The number of an outcome code (R84). -/
def OutcomeCode.toNat : OutcomeCode → Nat
  | .none => 0
  | .block => 1
  | .endOfData => 2
  | .corruptStream => 3
  | .shortRead => 4
  | .exceededMaxRows => 5
  | .configurationError => 6

/-- OUTCOME as a register; "Bits 31:3 read 0" (R24). -/
def OutcomeCode.toReg (o : OutcomeCode) : Reg32 := BitVec.ofNat 32 o.toNat

/-- The number of a per-link code (R31). -/
def LinkStat.toNat : LinkStat → Nat
  | .notRun => 0
  | .complete => 1
  | .truncated => 2

/-- LINKSTAT as a register: link i in bits 2i+1:2i; "Bits 31:8 read 0" (R31). -/
def linkStatReg (p : PerLink LinkStat) : Reg32 :=
  BitVec.ofNat 32 (p.l0.toNat + 4 * p.l1.toNat + 16 * p.l2.toNat + 64 * p.l3.toNat)

/-- CTRL as a register: REMAP_EN in bit 0; bits 31:1 "read 0 and ignore writes" (R25). -/
def ctrlReg (remapEn : Bool) : Reg32 := BitVec.ofNat 32 remapEn.toNat

/-- What a written CTRL value sets REMAP_EN to: its bit 0 (R25). -/
def remapEnOf (v : Reg32) : Bool := v.getLsbD 0

/-- FATAL set when an outcome is EXCEEDED_MAX_ROWS, other flags kept (R23, R194, R199). -/
def Status.afterRaise (f : Status) (x : OutcomeCode) : Status :=
  { f with fatal := f.fatal || x == .exceededMaxRows }

end Sys2Proof.Machine
end

