-- ==== Sys2Proof/Machine/Operands.lean ====
section
/-! DEFINITION. How every multi-part value is put together from stream bits (30_encoding.md R71 to R77, R81), and
the inverse law that builds test streams (43_sampleunpacker.md R136; 30_encoding.md R89).

A reader `W : Nat → Word` stands for the array WORDS: `W i` is `W[i]` (00_scope.md R8). -/

namespace Sys2Proof.Machine

/-- `W[i] = (B[2i] << 8) | B[2i+1]`: the first byte is the more significant (R51, R71). -/
def wordOfBytes (hi lo : Byte) : Word :=
  ((hi.setWidth 16) <<< 8) ||| lo.setWidth 16

/-- `field(k) = (W[k] << 16) | W[k+1]`: the first Word is the more significant half (R72). -/
def fieldOfWords (hi lo : Word) : Reg32 :=
  ((hi.setWidth 32) <<< 16) ||| lo.setWidth 32

/-- The successor of a sequence counter, `(seq0 + 1) mod 2^32` (R81, R111). -/
def successor (seq0 : Reg32) : Reg32 := seq0 + 1#32

/-- The bit law of a group, verbatim (R81, R135): four 12-bit values from three Words. -/
def groupLaw (w0 w1 w2 : Word) : Group where
  a := ((w2 &&& 0xFFF0#16) >>> 4).setWidth 12
  b := (((w2 &&& 0x000F#16) <<< 8) ||| ((w1 &&& 0xFF00#16) >>> 8)).setWidth 12
  c := (((w1 &&& 0x00FF#16) <<< 4) ||| ((w0 &&& 0xF000#16) >>> 12)).setWidth 12
  d := (w0 &&& 0x0FFF#16).setWidth 12

/-- The first column group `g` writes: 4, 0, 12, 8, 20, 16, 28, 24 (R77, R138). -/
def groupBase (g : Nat) : Nat := 4 * (g ^^^ 1)

/-- The physical column of electronics column `e` with table entry `p`: `p - 1` (R79, R81, R161).  Entry 0 names no
column ("channels are 1-based", R160). -/
def physicalColumn (p : Byte) : Option Nat :=
  match p.toNat with
  | 0 => none
  | c + 1 => some c

/-- A sample as a block cell, zero-extended to int16 (R7, R79, R140). -/
def cellOfSample (v : Sample) : Cell16 := v.setWidth 16

/-- The inverse of the bit law (R136): `w0 = (c[3:0] << 12) | d`. -/
def packWord0 (g : Group) : Word := ((g.c.setWidth 16 &&& 0x000F#16) <<< 12) ||| g.d.setWidth 16

/-- The inverse of the bit law (R136): `w1 = (b[7:0] << 8) | c[11:4]`. -/
def packWord1 (g : Group) : Word := ((g.b.setWidth 16 &&& 0x00FF#16) <<< 8) ||| (g.c.setWidth 16 >>> 4)

/-- The inverse of the bit law (R136): `w2 = (a << 4) | b[11:8]`. -/
def packWord2 (g : Group) : Word := (g.a.setWidth 16 <<< 4) ||| (g.b.setWidth 16 >>> 8)

/-- The three Words of a group, in stream order (R136, R76). -/
def packGroup (g : Group) : List Word := [packWord0 g, packWord1 g, packWord2 g]

/-- The group whose values stand at columns `base(g)` to `base(g) + 3` of a row of 32 values (R89). -/
def groupAt (values : SampleRow) (g : Nat) : Group where
  a := values.getD (groupBase g) 0#12
  b := values.getD (groupBase g + 1) 0#12
  c := values.getD (groupBase g + 2) 0#12
  d := values.getD (groupBase g + 3) 0#12

/-- `ROW(f; v0 … v31)`: the 25 Words with filler `f` that decode to the 32 values (R89, R77). -/
def packRow (filler : Word) (values : SampleRow) : List Word :=
  filler :: (List.range 8).flatMap fun g => packGroup (groupAt values g)

/-- `PKG(seq, res; payload)`: a package as stream Words (R73, R74, R89). -/
def packPackage (seq res : Reg32) (payload : List Word) : List Word :=
  [(seq >>> 16).setWidth 16, seq.setWidth 16, (res >>> 16).setWidth 16, res.setWidth 16] ++ payload

end Sys2Proof.Machine
end

