-- ==== Sys2Proof/Machine/Ops.lean ====
section
/-! DEFINITION. The named operations over the arrays and the registers, and `raise`, the core's one way of ending a
command with an error outcome (00_scope.md R9; 60_exceptions.md R199), with the two ways back beside it (R201). -/

namespace Sys2Proof.Machine

/-! ### BYTEBUF and PERM: cells in rising order of index -/

/-- The value written last at index `a`; `none` where nothing has been written since reset (R32, R34, R41). -/
def Memory.read : List Host.Cell → Nat → Option Byte
  | [], _ => none
  | (b, v) :: m, a => if a = b then some v else Memory.read m a

/-- Write one element, keeping the cells in rising order of index. -/
def Memory.write : List Host.Cell → Nat → Byte → List Host.Cell
  | [], a, x => [(a, x)]
  | (b, v) :: m, a, x =>
    if a < b then (a, x) :: (b, v) :: m
    else if a = b then (a, x) :: m
    else (b, v) :: Memory.write m a x

/-- The canonical form: indices strictly rising.  An unlisted element has no value, so no cell can repeat it. -/
abbrev Memory.wf (m : List Host.Cell) : Prop := m.Pairwise fun p q => p.1 < q.1

/-! ### Reading elements; an element with no value is a free value (R42; log entry 2) -/

/-- `B[j]` (R8, R32). -/
def State.byteAt (s : State) (j : Nat) : Byte :=
  (Memory.read s.bytebuf j).getD ((Config.unspecified s.draws .bytebuf j).setWidth 8)

/-- `W[k]` (R8, R33). -/
def State.wordAt (s : State) (k : Nat) : Word :=
  (s.words[k]?).getD (Config.unspecified s.draws .words k)

/-- `PERM[e]` (R34). -/
def State.permAt (s : State) (e : Nat) : Byte :=
  (Memory.read s.perm e).getD ((Config.unspecified s.draws .perm e).setWidth 8)

/-- `PERM_ACT[e]` (R35). -/
def State.permActAt (s : State) (e : Nat) : Byte :=
  (s.permAct[e]?).getD ((Config.unspecified s.draws .permAct e).setWidth 8)

/-- Element `i` of BLOCK, `BLOCK[i / 128][i % 128]` (R8, R36). -/
def State.cellAt (s : State) (i : Nat) : Cell16 :=
  (((s.block[i / 128]?).getD [])[i % 128]?).getD (Config.unspecified s.draws .block i)

/-- `PERM[0..127]`, the staging table as a whole (R34). -/
def State.permTable (s : State) : List Byte := (List.range 128).map s.permAt

/-- `N` is "shorthand for the register NWORDS" (R8). -/
def State.numWords (s : State) : Nat := s.nwords.toNat

/-! ### Register updates the commands share -/

/-- `OUTCOME <- x`. -/
def State.setOutcome (s : State) (x : OutcomeCode) : State := { s with outcome := x }

/-- A unit operation leaves its result in the transient state and writes nothing else (R40; log entry 3). -/
def State.setWork (s : State) (w : Work) : State := { s with work := w }

/-- `NROWS <- 0 ; LINK_ROWS[0..3] <- … ; LINKSTAT <- …`: the diagnostics of a decode, and no block (R172, R199).  The
contents of BLOCK become unspecified, so no row of it is held (R36, R199), and no transient state is left (R40). -/
def State.recordLinks (s : State) (rows : PerLink Reg32) (stat : PerLink LinkStat) : State :=
  { s with nrows := 0#32, linkRows := rows, linkStat := stat, block := [], work := Work.empty }

/-- The end of a decode that gives a block: BLOCK, NROWS, CURSOR, OUTCOME (R172). -/
def State.deliver (s : State) (blk : List BlockRow) (pos : Nat) : State :=
  { s with block := blk, nrows := BitVec.ofNat 32 blk.length, cursor := BitVec.ofNat 32 pos, outcome := .block }

/-- `raise X(p)`, the entry of an error outcome: `NROWS <- 0`, `CURSOR <- p`, `OUTCOME <- X`, FATAL set for
EXCEEDED_MAX_ROWS; BLOCK becomes unspecified; nothing else is saved (R9, R199). -/
def State.raise (s : State) (x : OutcomeCode) (p : Nat) : State :=
  { s with
    nrows := 0#32
    cursor := BitVec.ofNat 32 p
    outcome := x
    status := s.status.afterRaise x
    block := [] }

/-- One way back from an error outcome: the host writes CURSOR, to "retry from a later position" (R27, R201). -/
def State.moveCursor (s : State) (v : Reg32) : State := { s with cursor := v }

/-- The other way back: what CONFIGURE does before anything else, "CONFIGURE as a soft reset" (R171, R221, R201).
WORDS, PERM_ACT and BLOCK become unspecified (R33, R35, R36). -/
def State.softReset (s : State) : State :=
  { s with
    status := Status.clear
    nwords := 0#32
    cursor := 0#32
    nrows := 0#32
    linkRows := PerLink.const 0#32
    linkStat := PerLink.const .notRun
    words := []
    permAct := []
    block := []
    work := Work.empty }

/-- The success of CONFIGURE: the snapshots and CONFIGURED (R171, R61). -/
def State.install (s : State) (ws : List Word) (table : List Byte) : State :=
  { s with
    words := ws
    nwords := BitVec.ofNat 32 ws.length
    permAct := table
    status := { s.status with configured := true }
    outcome := .none }

/-- The end-of-stream marker of POLL: `STATUS.DONE <- 1` (R175). -/
def State.setDone (s : State) : State := { s with status := { s.status with done := true } }

/-- Take the first request off the list; the step's free values are new ones (log entries 1 and 2). -/
def State.take (s : State) (rest : List Request) : State :=
  { s with pending := rest, draws := s.draws + 1 }

/-- The external reset (R220): the state of `State.reset`; what the model keeps beside the machine stays. -/
def State.externalReset (s : State) : State :=
  { State.reset with pending := s.pending, draws := s.draws }

end Sys2Proof.Machine
end

