-- ==== Sys2Proof/Machine/ChannelRemapper.lean ====
section
/-! DEFINITION. ChannelRemapper (45_channelremapper.md): VERIFY_TABLE, REMAP. -/

namespace Sys2Proof.Machine

/-- The loop of VERIFY_TABLE (R160) with the values already seen. -/
def verifyFrom (seen : List Nat) : List Byte → Bool
  | [] => true
  | p :: rest =>
    if p.toNat < 1 ∨ p.toNat > 128 then false
    else if seen.contains p.toNat then false
    else verifyFrom (p.toNat :: seen) rest

/-- VERIFY_TABLE(t) (R160). -/
def verifyTable (t : List Byte) : Bool := verifyFrom [] t

/-- One copy of REMAP: electronics column `e` goes to output column `PERM_ACT[e] - 1` (R161).  A table entry that
names no column copies nothing; VERIFY_TABLE has excluded such entries (R160). -/
def moveColumn (t : Nat → Byte) (row out : BlockRow) (e : Nat) : BlockRow :=
  match physicalColumn (t e) with
  | some c => out.set c (row.getD e Config.fill)
  | none => out

/-- One row of REMAP (R161), over an output row `init` of which a bijection leaves no cell (R161 (a)). -/
def remapRow (t : Nat → Byte) (init row : BlockRow) : BlockRow :=
  (List.range 128).foldl (moveColumn t row) init

/-- The output row before the copies: unspecified cells (R42; log entry 7). -/
def freeRow (draw r : Nat) : BlockRow :=
  (List.range 128).map fun c => Config.unspecified draw .block (128 * r + c)

/-- REMAP(blk) (R161) with the table and the free cells of a state. -/
def State.remapBlock (s : State) (blk : List BlockRow) : List BlockRow :=
  blk.mapIdx fun r row => remapRow s.permActAt (freeRow s.draws r) row

/-- VERIFY_TABLE (R160), of the staging table PERM. -/
def execVerifyTable (s : State) : Result :=
  .next (s.setWork { s.work with verified := some (verifyTable s.permTable) })

/-- REMAP (R161), of the block of the transient state. -/
def execRemap (s : State) : Result :=
  .next (s.setWork { s.work with blk := s.remapBlock s.work.blk })

end Sys2Proof.Machine
end

