-- ==== Sys2Proof/Machine/WordReader.lean ====
section
/-! DEFINITION. WordReader (40_wordreader.md): READ_WORD, FIELD32, and the whole-buffer copy of R102. -/

namespace Sys2Proof.Machine

/-- READ_WORD(i) over a byte reader `B` (R100). -/
def readWord (B : Nat → Byte) (i : Nat) : Word := wordOfBytes (B (2 * i)) (B (2 * i + 1))

/-- FIELD32(k) over a Word reader `W` (R101). -/
def field32 (W : Nat → Word) (k : Nat) : Reg32 := fieldOfWords (W k) (W (k + 1))

/-- The RawWordStream of `n` Words: `for i in 0 .. n-1: WORDS[i] <- READ_WORD(i)` (R102). -/
def wordStream (B : Nat → Byte) (n : Nat) : List Word := (List.range n).map (readWord B)

/-- READ_WORD (R100).  DESIGN CHOICE (log entry 7): run on its own at `i >= floor(NBYTES / 2)`, outside R100's domain,
it reads what BYTEBUF holds there, the odd last byte of R52 included, and a free value where nothing was written. -/
def execReadWord (i : Nat) (s : State) : Result :=
  .next (s.setWork { s.work with word := readWord s.byteAt i })

/-- FIELD32 (R101).  DESIGN CHOICE (log entry 7): run on its own at `k + 1 >= N`, outside R101's domain, it reads what
WORDS holds there, and a free value where it holds nothing. -/
def execField32 (k : Nat) (s : State) : Result :=
  .next (s.setWork { s.work with field := field32 s.wordAt k })

end Sys2Proof.Machine
end

