-- ==== Sys2Proof/Machine/PackageFramer.lean ====
section
/-! DEFINITION. PackageFramer (41_packageframer.md): SEEK_NEXT, the one framing strategy of R115. -/

namespace Sys2Proof.Machine

/-- Is there a header with counter `succ` and a zero reserved field at `k`? (R74, R110) -/
def isSignature (W : Nat → Word) (succ : Reg32) (k : Nat) : Bool :=
  field32 W k == succ && field32 W (k + 2) == 0#32

/-- The scan of R110, `while k + 4 <= N`, word by word: the first signature at or after `k`.  The first argument
bounds the number of passes; `n` of them are more than there are positions. -/
def seekScan (W : Nat → Word) (n : Nat) (succ : Reg32) : Nat → Nat → Option Nat
  | 0, _ => none
  | fuel + 1, k =>
    if k + 4 ≤ n then
      if isSignature W succ k then some k else seekScan W n succ fuel (k + 1)
    else none

/-- SEEK_NEXT(pos) over the `n` Words of `W` (R110): bounds, then `res0`, then the scan (R198). -/
def seekNext (W : Nat → Word) (n pos : Nat) : SeekResult :=
  if pos + 4 > n then .endOfData
  else if field32 W (pos + 2) ≠ 0#32 then .corruptStream
  else
    match seekScan W n (successor (field32 W pos)) n (pos + 4) with
    | some k => .packageEnd k
    | none => .endOfData

/-- SEEK_NEXT (R110). -/
def execSeekNext (pos : Nat) (s : State) : Result :=
  .next (s.setWork { s.work with seek := some (seekNext s.wordAt s.numWords pos) })

end Sys2Proof.Machine
end

