-- ==== Sys2Proof/Machine/LinkAssembler.lean ====
section
/-! DEFINITION. LinkAssembler (42_linkassembler.md): APPEND, MAKE_LINK, ROW_COUNT. -/

namespace Sys2Proof.Machine

/-- `W[a:b]` (R10). -/
def slice (W : Nat → Word) (a b : Nat) : List Word := (List.range' a (b - a)).map W

/-- The alignment quirk: two payload Words at least, the first 0x0000, the second a sync marker (R120, R121). -/
def quirk (W : Nat → Word) (start stop : Nat) : Bool :=
  decide (stop - start ≥ 2) && W start == 0x0000#16 && (W (start + 1) == Config.syncA || W (start + 1) == Config.syncB)

/-- APPEND(s, e, buf) (R120): copy the payload, less its first Word where the quirk is there. -/
def append (W : Nat → Word) (start stop : Nat) (buf : List Word) : List Word :=
  buf ++ slice W (if quirk W start stop then start + 1 else start) stop

/-- ROW_COUNT(buf) (R125). -/
def rowCount (buf : List Word) : Nat := buf.length / 25

/-- The loop of MAKE_LINK (R122).  The first argument bounds the number of passes: every pass that does not return
moves `pos` on by 4 or more within `n`, so `n + 1` passes are never used up (Laws: `makeLinkFrom_fuel`).  The order
of the tests is the rule's: row bound, then short package (R126). -/
def makeLinkFrom (W : Nat → Word) (n nominal maxRows : Nat) : Nat → List Word → Nat → LinkResult
  | 0, buf, pos => ⟨buf, pos, pos, .truncated⟩
  | fuel + 1, buf, pos =>
    match seekNext W n pos with
    | .corruptStream => ⟨buf, pos, pos, .corrupt⟩
    | .endOfData =>
      if pos + 4 ≤ n then
        -- the tail package (R124)
        if rowCount (append W (pos + 4) n buf) > maxRows then ⟨append W (pos + 4) n buf, pos, pos, .exceeded⟩
        else ⟨append W (pos + 4) n buf, n, pos, .truncated⟩
      else ⟨buf, pos, pos, .truncated⟩
    | .packageEnd k =>
      if rowCount (append W (pos + 4) k buf) > maxRows then ⟨append W (pos + 4) k buf, pos, pos, .exceeded⟩
      else if k - (pos + 4) < nominal then ⟨append W (pos + 4) k buf, k, k, .complete⟩
      else makeLinkFrom W n nominal maxRows fuel (append W (pos + 4) k buf) k

/-- MAKE_LINK(pos) (R122). -/
def makeLink (W : Nat → Word) (n nominal maxRows pos : Nat) : LinkResult :=
  makeLinkFrom W n nominal maxRows (n + 1) [] pos

/-- MAKE_LINK with the sizes and the stream of a state (R122, R28, R29). -/
def State.makeLink (s : State) (pos : Nat) : LinkResult :=
  Sys2Proof.Machine.makeLink s.wordAt s.numWords s.nominal.toNat s.maxRows.toNat pos

/-- APPEND (R120), on the link buffer of the transient state.  DESIGN CHOICE (log entry 7): run on its own past `N`,
outside R120's domain, it copies what WORDS holds there, and free values where it holds nothing. -/
def execAppend (start stop : Nat) (s : State) : Result :=
  .next (s.setWork { s.work with buf := append s.wordAt start stop s.work.buf })

/-- MAKE_LINK (R122): the link buffer, and the whole tuple as result. -/
def execMakeLink (pos : Nat) (s : State) : Result :=
  .next (s.setWork { s.work with buf := (s.makeLink pos).buf, link := some (s.makeLink pos) })

/-- ROW_COUNT (R125), of the link buffer of the transient state. -/
def execRowCount (s : State) : Result :=
  .next (s.setWork { s.work with count := rowCount s.work.buf })

end Sys2Proof.Machine
end

