-- ==== Sys2Proof/Machine/SampleUnpacker.lean ====
section
/-! DEFINITION. SampleUnpacker (43_sampleunpacker.md): UNPACK_GROUP, UNPACK_ROW, UNPACK_LINK. -/

namespace Sys2Proof.Machine

/-- Group `g` of a row: its Words `row[1+3g]`, `row[2+3g]`, `row[3+3g]` under the bit law (R77, R137). -/
def groupOfRow (row : List Word) (g : Nat) : Group :=
  groupLaw (row.getD (1 + 3 * g) 0#16) (row.getD (2 + 3 * g) 0#16) (row.getD (3 + 3 * g) 0#16)

/-- Write the four values of a group at `base` to `base + 3` (R137). -/
def writeGroup (out : SampleRow) (base : Nat) (v : Group) : SampleRow :=
  (((out.set base v.a).set (base + 1) v.b).set (base + 2) v.c).set (base + 3) v.d

/-- UNPACK_ROW(row) (R137): the filler Word `row[0]` is skipped, then the eight groups in order.  Every column is
written once, so the row it starts from cannot be seen (R137 (b)). -/
def unpackRow (row : List Word) : SampleRow :=
  (List.range 8).foldl (fun out g => writeGroup out (groupBase g) (groupOfRow row g)) (List.replicate 32 0#12)

/-- UNPACK_LINK(buf) (R139): rows cut every 25 Words from the start of the buffer. -/
def unpackLink (buf : List Word) : List SampleRow :=
  (List.range (rowCount buf)).map fun r => unpackRow ((buf.drop (25 * r)).take 25)

/-- UNPACK_GROUP (R135). -/
def execUnpackGroup (w0 w1 w2 : Word) (s : State) : Result :=
  .next (s.setWork { s.work with group := groupLaw w0 w1 w2 })

/-- UNPACK_ROW (R137). -/
def execUnpackRow (row : List Word) (s : State) : Result :=
  .next (s.setWork { s.work with row := unpackRow row })

/-- UNPACK_LINK (R139), of the link buffer of the transient state into `rows[i]` (R40). -/
def execUnpackLink (i : Fin 4) (s : State) : Result :=
  .next (s.setWork { s.work with rows := s.work.rows.set i (unpackLink s.work.buf) })

end Sys2Proof.Machine
end

