-- ==== Sys2Proof/Machine/TriggerAssembler.lean ====
section
/-! DEFINITION. TriggerAssembler (44_triggerassembler.md): ASSEMBLE. -/

namespace Sys2Proof.Machine

/-- `n = max(n_0, n_1, n_2, n_3)` (R150). -/
def blockRows (rows : PerLink (List SampleRow)) : Nat :=
  max (max rows.l0.length rows.l1.length) (max rows.l2.length rows.l3.length)

/-- Row `r` of one link's 32 columns: its values zero-extended, or FILL where the link has no such row
(R150, R151). -/
def quadrant (link : List SampleRow) (r : Nat) : List Cell16 :=
  match link[r]? with
  | some row => row.map cellOfSample
  | none => List.replicate 32 Config.fill

/-- ASSEMBLE(rows0, rows1, rows2, rows3) (R150): link i in columns 32*i to 32*i + 31. -/
def assemble (rows : PerLink (List SampleRow)) : List BlockRow :=
  (List.range (blockRows rows)).map fun r =>
    quadrant rows.l0 r ++ quadrant rows.l1 r ++ quadrant rows.l2 r ++ quadrant rows.l3 r

/-- ASSEMBLE (R150), of the four links of the transient state. -/
def execAssemble (s : State) : Result :=
  .next (s.setWork { s.work with blk := assemble s.work.rows })

end Sys2Proof.Machine
end

