-- ==== Sys2Proof/Machine/HostCommands.lean ====
section
/-! DEFINITION. The Decode driver and the four host commands (46_decode_driver.md). -/

namespace Sys2Proof.Machine

/-! ### CONFIGURE -/

/-- CONFIGURE with a byte memory of `cap` elements (R171). -/
def configureWith (cap : Nat) (s : State) : State :=
  if s.nbytes = 0#32 ∨ s.nbytes.toNat > cap then s.softReset.setOutcome .configurationError
  else if verifyTable s.permTable then
    s.softReset.install (wordStream s.byteAt (s.nbytes.toNat / 2)) s.permTable
  else s.softReset.setOutcome .configurationError

/-! ### DECODE_BODY -/

/-- What the loop of DECODE_BODY ends with (R172): an error outcome raised at a position, or the position after the
fourth link; with the links finished so far, in order. -/
inductive LinksResult where
  | failed (outcome : OutcomeCode) (position : Nat) (done : List LinkResult)
  | finished (position : Nat) (done : List LinkResult)
  deriving DecidableEq, Repr

/-- The loop `for i in 0 .. 3` of DECODE_BODY with `left` links to go (R172, R173): the fourth link may be
`Truncated`, an earlier one may not. -/
def decodeLinks (s : State) : Nat → Nat → List LinkResult → LinksResult
  | 0, pos, done => .finished pos done
  | left + 1, pos, done =>
    match (s.makeLink pos).out with
    | .corrupt => .failed .corruptStream (s.makeLink pos).fail done
    | .exceeded => .failed .exceededMaxRows (s.makeLink pos).fail done
    | .complete => decodeLinks s left (s.makeLink pos).next (done ++ [s.makeLink pos])
    | .truncated =>
      if left = 0 then .finished (s.makeLink pos).next (done ++ [s.makeLink pos])
      else .failed .shortRead (s.makeLink pos).fail (done ++ [s.makeLink pos])

/-- LINKSTAT code of a finished link: "1 if out == Complete else 2" (R172). -/
def linkStatOf (r : LinkResult) : LinkStat :=
  if r.out = .complete then .complete else .truncated

/-- LINK_ROWS code of a finished link: `ROW_COUNT(buf)` (R172). -/
def linkRowsOf (r : LinkResult) : Reg32 := BitVec.ofNat 32 (rowCount r.buf)

/-- A value for each of the four links from the finished ones in order; `rest` for a link that did not finish. -/
def perLinkOf {α : Type} (f : LinkResult → α) (rest : α) (done : List LinkResult) : PerLink α :=
  ⟨(done[0]?.map f).getD rest, (done[1]?.map f).getD rest, (done[2]?.map f).getD rest, (done[3]?.map f).getD rest⟩

/-- LINK_ROWS and LINKSTAT of the finished links; 0 and NOT_RUN for the others (R30, R31, R172; D37). -/
def State.noteLinks (s : State) (done : List LinkResult) : State :=
  s.recordLinks (perLinkOf linkRowsOf 0#32 done) (perLinkOf linkStatOf .notRun done)

/-- `rows[0..3]` of the finished links (R172, R139). -/
def rowsOfLinks (done : List LinkResult) : PerLink (List SampleRow) :=
  perLinkOf (fun r => unpackLink r.buf) [] done

/-- The block of a trigger: ASSEMBLE, then REMAP where REMAP_EN is set (R172, R25). -/
def State.triggerBlock (s : State) (done : List LinkResult) : List BlockRow :=
  if s.remapEn then s.remapBlock (assemble (rowsOfLinks done)) else assemble (rowsOfLinks done)

/-- DECODE_BODY (R172). -/
def decodeBody (s : State) : State :=
  if s.cursor.toNat + 4 > s.numWords then (s.noteLinks []).setOutcome .endOfData
  else
    match decodeLinks s 4 s.cursor.toNat [] with
    | .failed x p done => (s.noteLinks done).raise x p
    | .finished pos done => (s.noteLinks done).deliver (s.triggerBlock done) pos

/-! ### The commands -/

/-- NOP (R170): no effect on any state. -/
def execNop (s : State) : Result := .next s

/-- CONFIGURE (R171). -/
def execConfigure (s : State) : Result := .next (configureWith Config.bytebufCap s)

/-- DECODE (R172). -/
def execDecode (s : State) : Result :=
  if !s.status.configured then .next (s.setOutcome .none)
  else if s.status.fatal then .next (s.setOutcome .exceededMaxRows)
  else .next (decodeBody s)

/-- The end-of-stream marker: `if OUTCOME == END_OF_DATA: STATUS.DONE <- 1` (R175). -/
def State.markEnd (s : State) : State := if s.outcome = .endOfData then s.setDone else s

/-- POLL (R175): DONE is tested before FATAL. -/
def execPoll (s : State) : Result :=
  if !s.status.configured then .next (s.setOutcome .none)
  else if s.status.done then .next (s.setOutcome .none)
  else if s.status.fatal then .next (s.setOutcome .exceededMaxRows)
  else .next (decodeBody s).markEnd

end Sys2Proof.Machine
end

