-- ==== Sys2Proof/Machine/Dispatch.lean ====
section
/-! DEFINITION. The meaning of each operation, one arm per row of the opcode table. -/

namespace Sys2Proof.Machine

def exec (i : Instr) (s : State) : Host.Outcome State Fault Refusal :=
  match i with
  | .nop => Sys2Proof.Machine.execNop s
  | .configure => Sys2Proof.Machine.execConfigure s
  | .decode => Sys2Proof.Machine.execDecode s
  | .poll => Sys2Proof.Machine.execPoll s
  | .readWord index => Sys2Proof.Machine.execReadWord index s
  | .field32 k => Sys2Proof.Machine.execField32 k s
  | .seekNext pos => Sys2Proof.Machine.execSeekNext pos s
  | .append start stop => Sys2Proof.Machine.execAppend start stop s
  | .makeLink pos => Sys2Proof.Machine.execMakeLink pos s
  | .rowCount => Sys2Proof.Machine.execRowCount s
  | .unpackGroup w0 w1 w2 => Sys2Proof.Machine.execUnpackGroup w0 w1 w2 s
  | .unpackRow row => Sys2Proof.Machine.execUnpackRow row s
  | .unpackLink link => Sys2Proof.Machine.execUnpackLink link s
  | .assemble => Sys2Proof.Machine.execAssemble s
  | .verifyTable => Sys2Proof.Machine.execVerifyTable s
  | .remap => Sys2Proof.Machine.execRemap s

end Sys2Proof.Machine
end

