-- ==== Sys2Proof/Machine/Registers.lean ====
section
/-! DEFINITION. What the host's accesses do (10_state.md R21 to R38): registers by number, array elements by index.
A write to CMD is not here: it runs a command (Machine/Serve.lean). -/

namespace Sys2Proof.Machine

/-- CMD, number 0x00 (R22). -/
def regCmd : RegNum := 0x00#8

/-- A host read of a register (R21): a write-only register reads 0 (R22), a reserved number reads 0 (R37). -/
def readReg (s : State) (reg : RegNum) : Reg32 :=
  match reg.toNat with
  | 0x01 => s.status.toReg
  | 0x02 => s.outcome.toReg
  | 0x03 => ctrlReg s.remapEn
  | 0x04 => s.nbytes
  | 0x05 => s.nwords
  | 0x06 => s.cursor
  | 0x07 => s.nominal
  | 0x08 => s.maxRows
  | 0x09 => s.nrows
  | 0x0A => s.linkRows.l0
  | 0x0B => s.linkRows.l1
  | 0x0C => s.linkRows.l2
  | 0x0D => s.linkRows.l3
  | 0x0E => linkStatReg s.linkStat
  | _ => 0#32

/-- A host write of a register other than CMD (R21): CTRL, NBYTES, CURSOR, NOMINAL and MAX_ROWS take it; a write to
a read-only or reserved number is ignored (R21, R37). -/
def writeReg (s : State) (reg : RegNum) (v : Reg32) : State :=
  match reg.toNat with
  | 0x03 => { s with remapEn := remapEnOf v }
  | 0x04 => { s with nbytes := v }
  | 0x06 => s.moveCursor v
  | 0x07 => { s with nominal := v }
  | 0x08 => { s with maxRows := v }
  | _ => s

/-- Is `index` an element of the array? (R38, R50).  BLOCK is taken as unbounded (U34). -/
def inSpace (space : Space) (index : Nat) : Bool :=
  match space with
  | .bytebuf => decide (index < Config.bytebufCap)
  | .words => decide (index < Config.bytebufCap / 2)
  | .perm => decide (index < 128)
  | .permAct => decide (index < 128)
  | .block => true

/-- A host read of an array element, zero-extended; an unspecified element is a free value (R38, R42). -/
def readElem (s : State) (space : Space) (index : Nat) : Reg32 :=
  match space with
  | .bytebuf => (s.byteAt index).setWidth 32
  | .words => (s.wordAt index).setWidth 32
  | .perm => (s.permAt index).setWidth 32
  | .permAct => (s.permActAt index).setWidth 32
  | .block => (s.cellAt index).setWidth 32

/-- A host write of an array element: BYTEBUF and PERM take it (R32, R34), the read-only arrays ignore it
(R33, R35, R36; U28). -/
def writeElem (s : State) (space : Space) (index : Nat) (v : Byte) : State :=
  match space with
  | .bytebuf => { s with bytebuf := Memory.write s.bytebuf index v }
  | .words => s
  | .perm => { s with perm := Memory.write s.perm index v }
  | .permAct => s
  | .block => s

/-- The host read returns `v` (log entry 4). -/
def State.returnRead (s : State) (v : Reg32) : State := { s with readData := v }

/-- `rd REG`. -/
def serveRead (s : State) (reg : RegNum) : Result := .next (s.returnRead (readReg s reg))

/-- `rdm SPACE[index]`: refused outside the array (R38, U29). -/
def serveReadElem (s : State) (space : Space) (index : Nat) : Result :=
  if inSpace space index then .next (s.returnRead (readElem s space index))
  else .refused (.outsideArray space index)

/-- `wrm SPACE[index], value`: refused outside the array (R38, U29). -/
def serveWriteElem (s : State) (space : Space) (index : Nat) (v : Byte) : Result :=
  if inSpace space index then .next (writeElem s space index v)
  else .refused (.outsideArray space index)

end Sys2Proof.Machine
end

