-- ==== Sys2Proof/Machine/Serve.lean ====
section
/-! DEFINITION. Serving one request of the outside world: a host access, a reset, a stand-alone unit operation; and
placing an instruction where the next step fetches it. -/

namespace Sys2Proof.Machine

/-- A write to CMD runs the command its low byte selects; a reserved code "behaves as NOP" (R22, R82, R83). -/
def runCmd (s : State) (v : Reg32) : Result :=
  match decode (.cmd v) with
  | .instr i => exec i s
  | .reserved _ => .next s
  | .badOperands op => .refused (.undecodable op)

/-- A stand-alone unit operation (log entry 3). -/
def runUnit (s : State) (f : UnitFrame) : Result :=
  match decode (.unit f) with
  | .instr i => if wellFormed i then exec i s else .refused (.illFormed i)
  | .reserved _ => .next s
  | .badOperands op => .refused (.undecodable op)

/-- One host access (R20, R21, R38, R88). -/
def serveAccess (s : State) : Access → Result
  | .wr reg v => if reg = regCmd then runCmd s v else .next (writeReg s reg v)
  | .rd reg => serveRead s reg
  | .wrm space index v => serveWriteElem s space index v
  | .rdm space index => serveReadElem s space index

/-- One request. -/
def serve (s : State) : Request → Result
  | .access a => serveAccess s a
  | .reset => .next s.externalReset
  | .unit f => runUnit s f

/-- The request an encoded operation is handed to the core by: `cmd NAME` is a write to CMD (R88). -/
def requestOf : Encoded → Request
  | .cmd v => .access (.wr regCmd v)
  | .unit f => .unit f

/-- The arrays as a table pattern of `nbits` bits describes them: the stream data a unit row consumes, at position 0
of the array its operation reads.  DESIGN CHOICE (log entry 6): the cell of an ASSEMBLE pattern is column 0 of a
one-row link 0 with zeros beside it; the one payload bit of a MAKE_LINK pattern is bit 0 of a whole fifth Word, and the
7 leftmost bits of a 72-bit one are padding; NBYTES or NWORDS is the size of the data stored. -/
def State.loadPattern (s : State) (nbits w : Nat) : State :=
  match encodedOfBits nbits w with
  | some (.unit f) =>
    match f.op with
    | .readWord =>
      { s with
        bytebuf := Memory.write (Memory.write s.bytebuf 0 (BitVec.ofNat 8 (w / 256))) 1 (BitVec.ofNat 8 w)
        nbytes := 2#32 }
    | .field32 => { s with words := streamWords 2 w, nwords := 2#32 }
    | .seekNext => { s with words := streamWords 4 w, nwords := 4#32 }
    | .append => { s with words := streamWords 2 w, nwords := 2#32 }
    | .makeLink => { s with words := streamWords 4 (w / 2) ++ [BitVec.ofNat 16 (w % 2)], nwords := 5#32 }
    | .rowCount => s.setWork { s.work with buf := streamWords (nbits / 16) w }
    | .unpackGroup => s
    | .unpackRow => s
    | .unpackLink => s.setWork { s.work with buf := streamWords (nbits / 16) w }
    | .assemble =>
      s.setWork { s.work with rows := s.work.rows.set 0 [BitVec.ofNat 12 w :: List.replicate 31 0#12] }
    | .verifyTable => { s with perm := Memory.write s.perm 0 (BitVec.ofNat 8 w) }
    | .remap => { s with permAct := BitVec.ofNat 8 w :: s.permAct.drop 1 }
  | some (.cmd _) => s
  | none => s

/-- The request of a table pattern; a pattern of no row becomes a frame the decoder rejects (log entry 6). -/
def requestOfBits (nbits w : Nat) : Request :=
  match encodedOfBits nbits w with
  | some e => requestOf e
  | none => .unit ⟨.rowCount, [nbits, w], []⟩

/-- `s` with the instruction of a table pattern as its next request (log entry 1). -/
def State.placeFirst (s : State) (nbits w : Nat) : State :=
  { s.loadPattern nbits w with pending := requestOfBits nbits w :: s.pending }

end Sys2Proof.Machine
end

