-- ==== Sys2Proof/Machine/Step.lean ====
section
/-! DEFINITION. One step of the machine: the first pending request is served to completion (10_state.md R20;
46_decode_driver.md R177). -/

namespace Sys2Proof.Machine

/-- One step.  With nothing pending "the core is idle and keeps all its state" (R208). -/
def step (s : State) : Host.Outcome State Fault Refusal :=
  match s.pending with
  | [] => .next s
  | r :: rest => serve (s.take rest) r

/-- `s` with the instruction whose table bits are `w` placed where the next step fetches it (log entries 1 and 6). -/
def State.withFetchWord (s : State) (nbits w : Nat) : State := s.placeFirst nbits w

end Sys2Proof.Machine
end

