-- ==== Sys2Proof/Laws/Framer.lean ====
section
/-! SUPPORT. What SEEK_NEXT's scan can answer (R110), said once. -/

namespace Sys2Proof.Machine

variable {W : Nat → Word} {n : Nat} {succ : Reg32}

/-- A found position is the first signature at or after the start, wholly inside the data. -/
theorem seekScan_some {fuel k j : Nat} (h : seekScan W n succ fuel k = some j) :
    k ≤ j ∧ j + 4 ≤ n ∧ isSignature W succ j = true ∧ ∀ m, k ≤ m → m < j → isSignature W succ m = false := by
  induction fuel generalizing k with
  | zero => cases h
  | succ fuel ih =>
    unfold seekScan at h
    split at h
    · next hk =>
      split at h
      · next hs =>
        cases h
        exact ⟨Nat.le_refl _, hk, hs, fun m h1 h2 => absurd h2 (Nat.not_lt.2 h1)⟩
      · next hs =>
        obtain ⟨h1, h2, h3, h4⟩ := ih h
        refine ⟨by omega, h2, h3, fun m hm hj => ?_⟩
        rcases Nat.eq_or_lt_of_le hm with rfl | hm
        · simpa using hs
        · exact h4 m hm hj
    · cases h

/-- With a pass for every position, nothing found means that no position holds the signature. -/
theorem seekScan_none {fuel k : Nat} (h : seekScan W n succ fuel k = none) (hf : n ≤ fuel + k + 3) :
    ∀ m, k ≤ m → m + 4 ≤ n → isSignature W succ m = false := by
  induction fuel generalizing k with
  | zero => intro m h1 h2; omega
  | succ fuel ih =>
    intro m h1 h2
    unfold seekScan at h
    split at h
    · split at h
      · cases h
      · next hs =>
        rcases Nat.eq_or_lt_of_le h1 with rfl | h1
        · simpa using hs
        · exact ih h (by omega) m h1 h2
    · omega

/-- What SEEK_NEXT can answer, guards included. -/
theorem seekNext_cases (W : Nat → Word) (n pos : Nat) :
    (pos + 4 > n ∧ seekNext W n pos = .endOfData) ∨
    (pos + 4 ≤ n ∧ field32 W (pos + 2) ≠ 0#32 ∧ seekNext W n pos = .corruptStream) ∨
    (pos + 4 ≤ n ∧ field32 W (pos + 2) = 0#32 ∧
      ((∃ k, seekScan W n (successor (field32 W pos)) n (pos + 4) = some k ∧ seekNext W n pos = .packageEnd k) ∨
       (seekScan W n (successor (field32 W pos)) n (pos + 4) = none ∧ seekNext W n pos = .endOfData))) := by
  unfold seekNext
  by_cases h1 : pos + 4 > n
  · exact .inl ⟨h1, by simp [h1]⟩
  · by_cases h2 : field32 W (pos + 2) = 0#32
    · refine .inr (.inr ⟨by omega, h2, ?_⟩)
      cases h3 : seekScan W n (successor (field32 W pos)) n (pos + 4) with
      | some k => exact .inl ⟨k, rfl, by simp [h1, h2]⟩
      | none => exact .inr ⟨rfl, by simp [h1, h2]⟩
    · exact .inr (.inl ⟨by omega, h2, by simp [h1, h2]⟩)

/-- A package end lies after the header and before the last header that fits. -/
theorem seekNext_packageEnd_bounds {pos k : Nat} (h : seekNext W n pos = .packageEnd k) :
    pos + 4 ≤ k ∧ k + 4 ≤ n ∧ pos + 4 ≤ n ∧ isSignature W (successor (field32 W pos)) k = true := by
  rcases seekNext_cases W n pos with ⟨_, h'⟩ | ⟨_, _, h'⟩ | ⟨h1, _, ⟨j, hj, h'⟩ | ⟨_, h'⟩⟩
  · rw [h'] at h; cases h
  · rw [h'] at h; cases h
  · rw [h'] at h
    cases h
    obtain ⟨a, b, c, _⟩ := seekScan_some hj
    exact ⟨a, b, h1, c⟩
  · rw [h'] at h; cases h

/-- A signature's reserved field is zero. -/
theorem isSignature_reserved {k : Nat} (h : isSignature W succ k = true) : field32 W (k + 2) = 0#32 := by
  simp only [isSignature, Bool.and_eq_true, beq_iff_eq] at h
  exact h.2

/-- The scan reads the stream below `n` only. -/
theorem seekScan_congr {V : Nat → Word} (hV : ∀ i, i < n → V i = W i) (fuel k : Nat) :
    seekScan V n succ fuel k = seekScan W n succ fuel k := by
  induction fuel generalizing k with
  | zero => rfl
  | succ fuel ih =>
    unfold seekScan
    by_cases hk : k + 4 ≤ n
    · have : isSignature V succ k = isSignature W succ k := by
        simp only [isSignature, field32, hV k (by omega), hV (k + 1) (by omega), hV (k + 2) (by omega),
          hV (k + 2 + 1) (by omega)]
      simp only [hk, if_true, this, ih]
    · simp only [hk, if_false]

/-- SEEK_NEXT reads the stream below `n` only (R55). -/
theorem seekNext_congr {V : Nat → Word} (hV : ∀ i, i < n → V i = W i) (pos : Nat) :
    seekNext V n pos = seekNext W n pos := by
  unfold seekNext
  by_cases h : pos + 4 > n
  · simp only [h, if_true]
  · have h0 : field32 V pos = field32 W pos := by
      simp only [field32, hV pos (by omega), hV (pos + 1) (by omega)]
    have h2 : field32 V (pos + 2) = field32 W (pos + 2) := by
      simp only [field32, hV (pos + 2) (by omega), hV (pos + 2 + 1) (by omega)]
    simp only [h, if_false, h0, h2, seekScan_congr hV]

end Sys2Proof.Machine
end

