-- ==== Sys2Proof/Laws/Links.lean ====
section
/-! SUPPORT. What MAKE_LINK's loop can answer (R122), said once, and that its bound on passes is never used up. -/

namespace Sys2Proof.Machine

variable {W : Nat → Word} {n nominal maxRows : Nat}

/-- One pass of the loop, as an equation with every guard. -/
theorem makeLinkFrom_succ (fuel : Nat) (buf : List Word) (pos : Nat) :
    makeLinkFrom W n nominal maxRows (fuel + 1) buf pos =
      match seekNext W n pos with
      | .corruptStream => ⟨buf, pos, pos, .corrupt⟩
      | .endOfData =>
        if pos + 4 ≤ n then
          if rowCount (append W (pos + 4) n buf) > maxRows then ⟨append W (pos + 4) n buf, pos, pos, .exceeded⟩
          else ⟨append W (pos + 4) n buf, n, pos, .truncated⟩
        else ⟨buf, pos, pos, .truncated⟩
      | .packageEnd k =>
        if rowCount (append W (pos + 4) k buf) > maxRows then ⟨append W (pos + 4) k buf, pos, pos, .exceeded⟩
        else if k - (pos + 4) < nominal then ⟨append W (pos + 4) k buf, k, k, .complete⟩
        else makeLinkFrom W n nominal maxRows fuel (append W (pos + 4) k buf) k := rfl

/-- Two bounds that both suffice give the same link. -/
theorem makeLinkFrom_fuel {f g : Nat} (buf : List Word) (pos : Nat) (hf : n < f + pos) (hf1 : 1 ≤ f)
    (hg : n < g + pos) (hg1 : 1 ≤ g) :
    makeLinkFrom W n nominal maxRows f buf pos = makeLinkFrom W n nominal maxRows g buf pos := by
  induction f generalizing g buf pos with
  | zero => omega
  | succ f ih =>
    cases g with
    | zero => omega
    | succ g =>
      rw [makeLinkFrom_succ, makeLinkFrom_succ]
      cases h : seekNext W n pos with
      | corruptStream => rfl
      | endOfData => rfl
      | packageEnd k =>
        obtain ⟨h1, h2, -, -⟩ := seekNext_packageEnd_bounds h
        simp only
        split
        · rfl
        · split
          · rfl
          · exact ih _ k (by omega) (by omega) (by omega) (by omega)

/-- What a run of the loop can end with: which outcome leaves which positions, and the row bound. -/
theorem makeLinkFrom_cases {fuel : Nat} {buf : List Word} {pos : Nat} {r : LinkResult}
    (hfuel : n < fuel + pos) (hf1 : 1 ≤ fuel) (h : makeLinkFrom W n nominal maxRows fuel buf pos = r) :
    pos ≤ r.fail ∧
    ((r.out = .corrupt ∧ r.next = r.fail ∧ field32 W (r.fail + 2) ≠ 0#32 ∧ r.fail + 4 ≤ n) ∨
     (r.out = .exceeded ∧ r.fail + 4 ≤ n ∧ maxRows < rowCount r.buf) ∨
     (r.out = .complete ∧ pos + 4 ≤ r.next ∧ r.next + 4 ≤ n ∧ field32 W (r.next + 2) = 0#32 ∧
        rowCount r.buf ≤ maxRows) ∨
     (r.out = .truncated ∧ seekNext W n r.fail = .endOfData ∧ r.fail + 4 ≤ n ∧ r.next = n ∧
        rowCount r.buf ≤ maxRows ∧ ∃ before, r.buf = append W (r.fail + 4) n before) ∨
     (r.out = .truncated ∧ n < pos + 4 ∧ r.next = pos ∧ r.fail = pos ∧ r.buf = buf)) := by
  induction fuel generalizing buf pos with
  | zero => omega
  | succ fuel ih =>
    rw [makeLinkFrom_succ] at h
    cases hs : seekNext W n pos with
    | corruptStream =>
      simp only [hs] at h
      subst h
      rcases seekNext_cases W n pos with ⟨_, h'⟩ | ⟨h1, h2, _⟩ | ⟨_, _, ⟨_, _, h'⟩ | ⟨_, h'⟩⟩
      · rw [h'] at hs; cases hs
      · exact ⟨Nat.le_refl _, .inl ⟨rfl, rfl, h2, h1⟩⟩
      · rw [h'] at hs; cases hs
      · rw [h'] at hs; cases hs
    | endOfData =>
      simp only [hs] at h
      split at h
      · next hp =>
        split at h
        · next hr => subst h; exact ⟨Nat.le_refl _, .inr (.inl ⟨rfl, hp, hr⟩)⟩
        · next hr =>
          subst h
          exact ⟨Nat.le_refl _, .inr (.inr (.inr (.inl ⟨rfl, hs, hp, rfl, Nat.not_lt.1 hr, buf, rfl⟩)))⟩
      · next hp =>
        subst h
        exact ⟨Nat.le_refl _, .inr (.inr (.inr (.inr ⟨rfl, by omega, rfl, rfl, rfl⟩)))⟩
    | packageEnd k =>
      obtain ⟨h1, h2, h3, h4⟩ := seekNext_packageEnd_bounds hs
      simp only [hs] at h
      split at h
      · next hr => subst h; exact ⟨Nat.le_refl _, .inr (.inl ⟨rfl, h3, hr⟩)⟩
      · next hr =>
        split at h
        · subst h
          exact ⟨by show pos ≤ k; omega,
            .inr (.inr (.inl ⟨rfl, h1, h2, isSignature_reserved h4, Nat.not_lt.1 hr⟩))⟩
        · obtain ⟨h5, h6⟩ := ih (by omega) (by omega) h
          refine ⟨by omega, ?_⟩
          rcases h6 with h6 | h6 | ⟨a, b, c⟩ | h6 | ⟨_, b, _⟩
          · exact .inl h6
          · exact .inr (.inl h6)
          · exact .inr (.inr (.inl ⟨a, by omega, c⟩))
          · exact .inr (.inr (.inr (.inl h6)))
          · omega

/-- APPEND reads the payload only. -/
theorem append_congr {V : Nat → Word} {start stop : Nat} (hV : ∀ i, i < stop → V i = W i) (buf : List Word) :
    append V start stop buf = append W start stop buf := by
  have hq : quirk V start stop = quirk W start stop := by
    unfold quirk
    by_cases h : stop - start ≥ 2
    · rw [hV start (by omega), hV (start + 1) (by omega)]
    · simp [h]
  have hs : ∀ a, slice V a stop = slice W a stop := fun a =>
    List.map_congr_left fun i hi => hV i (by
      have := List.mem_range'_1.1 hi
      omega)
  simp only [append, hq, hs]

/-- MAKE_LINK reads the stream below `n` only (R55). -/
theorem makeLinkFrom_congr {V : Nat → Word} (hV : ∀ i, i < n → V i = W i) (fuel : Nat) (buf : List Word) (pos : Nat) :
    makeLinkFrom V n nominal maxRows fuel buf pos = makeLinkFrom W n nominal maxRows fuel buf pos := by
  induction fuel generalizing buf pos with
  | zero => rfl
  | succ fuel ih =>
    rw [makeLinkFrom_succ, makeLinkFrom_succ, seekNext_congr hV]
    cases h : seekNext W n pos with
    | corruptStream => rfl
    | endOfData => simp only [append_congr hV]
    | packageEnd k =>
      obtain ⟨_, h2, _, _⟩ := seekNext_packageEnd_bounds h
      have := append_congr (start := pos + 4) (stop := k) (fun i hi => hV i (by omega)) buf
      simp only [this, ih]

/-- The payload length of a slice. -/
@[simp] theorem slice_length (W : Nat → Word) (a b : Nat) : (slice W a b).length = b - a := by simp [slice]

/-- ROW_COUNT never exceeds a 25th of the buffer, and its rows fit in the buffer (R125). -/
theorem rowCount_mul_le (buf : List Word) : 25 * rowCount buf ≤ buf.length := by
  unfold rowCount
  omega

end Sys2Proof.Machine
end

