-- ==== Sys2Proof/Laws/Remapper.lean ====
section
/-! SUPPORT. VERIFY_TABLE's loop (R160) and REMAP's copies (R161), said once. -/

namespace Sys2Proof.Machine

/-- The loop of VERIFY_TABLE succeeds exactly when every entry is in 1..128, new, and new among the rest. -/
theorem verifyFrom_iff (seen : List Nat) (t : List Byte) :
    verifyFrom seen t = true ↔
      (∀ p ∈ t, 1 ≤ p.toNat ∧ p.toNat ≤ 128) ∧ (t.map BitVec.toNat).Nodup ∧ ∀ p ∈ t, p.toNat ∉ seen := by
  induction t generalizing seen with
  | nil => simp [verifyFrom]
  | cons p rest ih =>
    unfold verifyFrom
    by_cases h1 : p.toNat < 1 ∨ p.toNat > 128
    · simp only [h1, if_true, Bool.false_eq_true, false_iff]
      rintro ⟨h, -, -⟩
      have := h p List.mem_cons_self
      omega
    · by_cases h2 : seen.contains p.toNat = true
      · have h2' : p.toNat ∈ seen := by simpa using h2
        simp only [h1, if_false, h2, if_true, Bool.false_eq_true, false_iff]
        rintro ⟨-, -, h⟩
        exact h p List.mem_cons_self h2'
      · have h2' : p.toNat ∉ seen := by simpa using h2
        rw [if_neg h1, if_neg h2, ih, List.map_cons, List.nodup_cons, List.forall_mem_cons, List.forall_mem_cons]
        simp only [List.mem_cons, not_or]
        constructor
        · rintro ⟨ha, hb, hc⟩
          refine ⟨⟨by omega, ha⟩, ⟨fun hm => ?_, hb⟩, h2', fun q hq => (hc q hq).2⟩
          obtain ⟨q, hq, he⟩ := List.mem_map.1 hm
          exact (hc q hq).1 he
        · rintro ⟨⟨_, ha⟩, ⟨hm, hb⟩, _, hc⟩
          refine ⟨ha, hb, fun q hq => ⟨fun he => hm ?_, hc q hq⟩⟩
          exact List.mem_map.2 ⟨q, hq, he⟩

/-- VERIFY_TABLE succeeds exactly when the entries are distinct values in 1..128. -/
theorem verifyTable_iff (t : List Byte) :
    verifyTable t = true ↔ (∀ p ∈ t, 1 ≤ p.toNat ∧ p.toNat ≤ 128) ∧ (t.map BitVec.toNat).Nodup := by
  simp [verifyTable, verifyFrom_iff]

@[simp] theorem moveColumn_length (t : Nat → Byte) (row out : BlockRow) (e : Nat) :
    (moveColumn t row out e).length = out.length := by
  unfold moveColumn
  split <;> simp

/-- A remapped row is as long as the row it starts from (R161). -/
@[simp] theorem remapRow_length (t : Nat → Byte) (init row : BlockRow) :
    (remapRow t init row).length = init.length := by
  unfold remapRow
  suffices h : ∀ (es : List Nat) (out : BlockRow), (es.foldl (moveColumn t row) out).length = out.length from h _ _
  intro es
  induction es with
  | nil => intro out; rfl
  | cons e es ih => intro out; rw [List.foldl_cons, ih, moveColumn_length]

@[simp] theorem freeRow_length (draw r : Nat) : (freeRow draw r).length = 128 := by simp [freeRow]

/-- REMAP keeps the row count (R161 (d)). -/
@[simp] theorem State.remapBlock_length (s : State) (blk : List BlockRow) :
    (s.remapBlock blk).length = blk.length := by simp [State.remapBlock]

/-- Row `r` of a remapped block. -/
theorem State.remapBlock_getElem (s : State) (blk : List BlockRow) (r : Nat) (h : r < blk.length) :
    (s.remapBlock blk)[r]'(by simpa using h) = remapRow s.permActAt (freeRow s.draws r) blk[r] := by
  simp [State.remapBlock]

/-- A run of copies leaves a column alone that none of them names, and fills one that exactly one of them names. -/
theorem moveColumns_getElem? {t : Nat → Byte} {row : BlockRow} (es : List Nat) (out : BlockRow) (c : Nat)
    (hc : c < out.length) :
    (∀ e ∈ es, physicalColumn (t e) ≠ some c) ∧ (es.foldl (moveColumn t row) out)[c]? = out[c]? ∨
    ∃ e ∈ es, physicalColumn (t e) = some c ∧ (es.foldl (moveColumn t row) out)[c]? = some (row.getD e Config.fill) := by
  induction es generalizing out with
  | nil => left; simp
  | cons e es ih =>
    rw [List.foldl_cons]
    rcases ih (moveColumn t row out e) (by simpa using hc) with ⟨h1, h2⟩ | ⟨e', he, h1, h2⟩
    · by_cases he : physicalColumn (t e) = some c
      · right
        refine ⟨e, List.mem_cons_self, he, ?_⟩
        rw [h2, moveColumn, he]
        simp [hc]
      · left
        refine ⟨by simpa [he] using h1, ?_⟩
        rw [h2, moveColumn]
        split
        · next d hd =>
          rw [List.getElem?_set_ne]
          rintro rfl
          exact he hd
        · rfl
    · exact .inr ⟨e', List.mem_cons_of_mem _ he, h1, h2⟩

end Sys2Proof.Machine
end

