-- ==== Sys2Proof/Laws/Samples.lean ====
section
/-! SUPPORT. The shapes of rows, links and blocks (R137, R139, R150), and the range of their values (R140). -/

namespace Sys2Proof.Machine

@[simp] theorem writeGroup_length (out : SampleRow) (base : Nat) (v : Group) :
    (writeGroup out base v).length = out.length := by simp [writeGroup]

/-- UNPACK_ROW gives 32 values (R137). -/
@[simp] theorem unpackRow_length (row : List Word) : (unpackRow row).length = 32 := by
  unfold unpackRow
  suffices h : ∀ (gs : List Nat) (out : SampleRow),
      (gs.foldl (fun out g => writeGroup out (groupBase g) (groupOfRow row g)) out).length = out.length by
    rw [h]
    simp
  intro gs
  induction gs with
  | nil => intro out; rfl
  | cons g gs ih =>
    intro out
    rw [List.foldl_cons, ih, writeGroup_length]

/-- UNPACK_LINK gives ROW_COUNT(buf) rows (R139). -/
@[simp] theorem unpackLink_length (buf : List Word) : (unpackLink buf).length = rowCount buf := by
  simp [unpackLink]

/-- Row `r` of a link comes from its own 25 Words (R139). -/
theorem unpackLink_getElem (buf : List Word) (r : Nat) (h : r < (unpackLink buf).length) :
    (unpackLink buf)[r] = unpackRow ((buf.drop (25 * r)).take 25) := by
  simp [unpackLink]

/-- Every row of a link has 32 values. -/
theorem unpackLink_row_length {buf : List Word} {row : SampleRow} (h : row ∈ unpackLink buf) : row.length = 32 := by
  simp only [unpackLink, List.mem_map] at h
  obtain ⟨r, -, rfl⟩ := h
  exact unpackRow_length _

/-- A cell holds at most 4095 (R140). -/
theorem cellOfSample_le (v : Sample) : (cellOfSample v).toNat ≤ 4095 := by
  have := v.isLt
  simp only [cellOfSample, BitVec.toNat_setWidth]
  omega

/-- The 32 columns of one link in one row. -/
theorem quadrant_length {link : List SampleRow} (h : ∀ row ∈ link, row.length = 32) (r : Nat) :
    (quadrant link r).length = 32 := by
  unfold quadrant
  split
  · next row hr => simp [h row (List.mem_of_getElem? hr)]
  · simp

theorem quadrant_le {link : List SampleRow} {r : Nat} {v : Cell16} (h : v ∈ quadrant link r) : v.toNat ≤ 4095 := by
  unfold quadrant at h
  split at h
  · obtain ⟨x, -, rfl⟩ := List.mem_map.1 h
    exact cellOfSample_le x
  · obtain ⟨-, rfl⟩ := List.mem_replicate.1 h
    decide

/-- ASSEMBLE gives as many rows as the longest link (R150). -/
@[simp] theorem assemble_length (rows : PerLink (List SampleRow)) : (assemble rows).length = blockRows rows := by
  simp [assemble]

/-- Row `r` of an assembled block: the four links side by side (R150). -/
theorem assemble_getElem (rows : PerLink (List SampleRow)) (r : Nat) (h : r < (assemble rows).length) :
    (assemble rows)[r] =
      quadrant rows.l0 r ++ quadrant rows.l1 r ++ quadrant rows.l2 r ++ quadrant rows.l3 r := by
  simp [assemble]

end Sys2Proof.Machine
end

