-- ==== Sys2Proof/Laws/State.lean ====
section
/-! SUPPORT. One lemma per field per named update of the state, so that no proof unfolds a record update. -/

namespace Sys2Proof.Machine

/-! ### `State.setOutcome` -/

@[simp] theorem State.setOutcome_status (s : State) (x : OutcomeCode) :
    (s.setOutcome x).status = s.status := rfl
@[simp] theorem State.setOutcome_outcome (s : State) (x : OutcomeCode) :
    (s.setOutcome x).outcome = x := rfl
@[simp] theorem State.setOutcome_remapEn (s : State) (x : OutcomeCode) :
    (s.setOutcome x).remapEn = s.remapEn := rfl
@[simp] theorem State.setOutcome_nbytes (s : State) (x : OutcomeCode) :
    (s.setOutcome x).nbytes = s.nbytes := rfl
@[simp] theorem State.setOutcome_nwords (s : State) (x : OutcomeCode) :
    (s.setOutcome x).nwords = s.nwords := rfl
@[simp] theorem State.setOutcome_cursor (s : State) (x : OutcomeCode) :
    (s.setOutcome x).cursor = s.cursor := rfl
@[simp] theorem State.setOutcome_nominal (s : State) (x : OutcomeCode) :
    (s.setOutcome x).nominal = s.nominal := rfl
@[simp] theorem State.setOutcome_maxRows (s : State) (x : OutcomeCode) :
    (s.setOutcome x).maxRows = s.maxRows := rfl
@[simp] theorem State.setOutcome_nrows (s : State) (x : OutcomeCode) :
    (s.setOutcome x).nrows = s.nrows := rfl
@[simp] theorem State.setOutcome_linkRows (s : State) (x : OutcomeCode) :
    (s.setOutcome x).linkRows = s.linkRows := rfl
@[simp] theorem State.setOutcome_linkStat (s : State) (x : OutcomeCode) :
    (s.setOutcome x).linkStat = s.linkStat := rfl
@[simp] theorem State.setOutcome_bytebuf (s : State) (x : OutcomeCode) :
    (s.setOutcome x).bytebuf = s.bytebuf := rfl
@[simp] theorem State.setOutcome_words (s : State) (x : OutcomeCode) :
    (s.setOutcome x).words = s.words := rfl
@[simp] theorem State.setOutcome_perm (s : State) (x : OutcomeCode) :
    (s.setOutcome x).perm = s.perm := rfl
@[simp] theorem State.setOutcome_permAct (s : State) (x : OutcomeCode) :
    (s.setOutcome x).permAct = s.permAct := rfl
@[simp] theorem State.setOutcome_block (s : State) (x : OutcomeCode) :
    (s.setOutcome x).block = s.block := rfl
@[simp] theorem State.setOutcome_work (s : State) (x : OutcomeCode) :
    (s.setOutcome x).work = s.work := rfl
@[simp] theorem State.setOutcome_pending (s : State) (x : OutcomeCode) :
    (s.setOutcome x).pending = s.pending := rfl
@[simp] theorem State.setOutcome_readData (s : State) (x : OutcomeCode) :
    (s.setOutcome x).readData = s.readData := rfl
@[simp] theorem State.setOutcome_draws (s : State) (x : OutcomeCode) :
    (s.setOutcome x).draws = s.draws := rfl

/-! ### `State.setWork` -/

@[simp] theorem State.setWork_status (s : State) (w : Work) :
    (s.setWork w).status = s.status := rfl
@[simp] theorem State.setWork_outcome (s : State) (w : Work) :
    (s.setWork w).outcome = s.outcome := rfl
@[simp] theorem State.setWork_remapEn (s : State) (w : Work) :
    (s.setWork w).remapEn = s.remapEn := rfl
@[simp] theorem State.setWork_nbytes (s : State) (w : Work) :
    (s.setWork w).nbytes = s.nbytes := rfl
@[simp] theorem State.setWork_nwords (s : State) (w : Work) :
    (s.setWork w).nwords = s.nwords := rfl
@[simp] theorem State.setWork_cursor (s : State) (w : Work) :
    (s.setWork w).cursor = s.cursor := rfl
@[simp] theorem State.setWork_nominal (s : State) (w : Work) :
    (s.setWork w).nominal = s.nominal := rfl
@[simp] theorem State.setWork_maxRows (s : State) (w : Work) :
    (s.setWork w).maxRows = s.maxRows := rfl
@[simp] theorem State.setWork_nrows (s : State) (w : Work) :
    (s.setWork w).nrows = s.nrows := rfl
@[simp] theorem State.setWork_linkRows (s : State) (w : Work) :
    (s.setWork w).linkRows = s.linkRows := rfl
@[simp] theorem State.setWork_linkStat (s : State) (w : Work) :
    (s.setWork w).linkStat = s.linkStat := rfl
@[simp] theorem State.setWork_bytebuf (s : State) (w : Work) :
    (s.setWork w).bytebuf = s.bytebuf := rfl
@[simp] theorem State.setWork_words (s : State) (w : Work) :
    (s.setWork w).words = s.words := rfl
@[simp] theorem State.setWork_perm (s : State) (w : Work) :
    (s.setWork w).perm = s.perm := rfl
@[simp] theorem State.setWork_permAct (s : State) (w : Work) :
    (s.setWork w).permAct = s.permAct := rfl
@[simp] theorem State.setWork_block (s : State) (w : Work) :
    (s.setWork w).block = s.block := rfl
@[simp] theorem State.setWork_work (s : State) (w : Work) :
    (s.setWork w).work = w := rfl
@[simp] theorem State.setWork_pending (s : State) (w : Work) :
    (s.setWork w).pending = s.pending := rfl
@[simp] theorem State.setWork_readData (s : State) (w : Work) :
    (s.setWork w).readData = s.readData := rfl
@[simp] theorem State.setWork_draws (s : State) (w : Work) :
    (s.setWork w).draws = s.draws := rfl

/-! ### `State.recordLinks` -/

@[simp] theorem State.recordLinks_status (s : State) (rows : PerLink Reg32) (stat : PerLink LinkStat) :
    (s.recordLinks rows stat).status = s.status := rfl
@[simp] theorem State.recordLinks_outcome (s : State) (rows : PerLink Reg32) (stat : PerLink LinkStat) :
    (s.recordLinks rows stat).outcome = s.outcome := rfl
@[simp] theorem State.recordLinks_remapEn (s : State) (rows : PerLink Reg32) (stat : PerLink LinkStat) :
    (s.recordLinks rows stat).remapEn = s.remapEn := rfl
@[simp] theorem State.recordLinks_nbytes (s : State) (rows : PerLink Reg32) (stat : PerLink LinkStat) :
    (s.recordLinks rows stat).nbytes = s.nbytes := rfl
@[simp] theorem State.recordLinks_nwords (s : State) (rows : PerLink Reg32) (stat : PerLink LinkStat) :
    (s.recordLinks rows stat).nwords = s.nwords := rfl
@[simp] theorem State.recordLinks_cursor (s : State) (rows : PerLink Reg32) (stat : PerLink LinkStat) :
    (s.recordLinks rows stat).cursor = s.cursor := rfl
@[simp] theorem State.recordLinks_nominal (s : State) (rows : PerLink Reg32) (stat : PerLink LinkStat) :
    (s.recordLinks rows stat).nominal = s.nominal := rfl
@[simp] theorem State.recordLinks_maxRows (s : State) (rows : PerLink Reg32) (stat : PerLink LinkStat) :
    (s.recordLinks rows stat).maxRows = s.maxRows := rfl
@[simp] theorem State.recordLinks_nrows (s : State) (rows : PerLink Reg32) (stat : PerLink LinkStat) :
    (s.recordLinks rows stat).nrows = 0#32 := rfl
@[simp] theorem State.recordLinks_linkRows (s : State) (rows : PerLink Reg32) (stat : PerLink LinkStat) :
    (s.recordLinks rows stat).linkRows = rows := rfl
@[simp] theorem State.recordLinks_linkStat (s : State) (rows : PerLink Reg32) (stat : PerLink LinkStat) :
    (s.recordLinks rows stat).linkStat = stat := rfl
@[simp] theorem State.recordLinks_bytebuf (s : State) (rows : PerLink Reg32) (stat : PerLink LinkStat) :
    (s.recordLinks rows stat).bytebuf = s.bytebuf := rfl
@[simp] theorem State.recordLinks_words (s : State) (rows : PerLink Reg32) (stat : PerLink LinkStat) :
    (s.recordLinks rows stat).words = s.words := rfl
@[simp] theorem State.recordLinks_perm (s : State) (rows : PerLink Reg32) (stat : PerLink LinkStat) :
    (s.recordLinks rows stat).perm = s.perm := rfl
@[simp] theorem State.recordLinks_permAct (s : State) (rows : PerLink Reg32) (stat : PerLink LinkStat) :
    (s.recordLinks rows stat).permAct = s.permAct := rfl
@[simp] theorem State.recordLinks_block (s : State) (rows : PerLink Reg32) (stat : PerLink LinkStat) :
    (s.recordLinks rows stat).block = [] := rfl
@[simp] theorem State.recordLinks_work (s : State) (rows : PerLink Reg32) (stat : PerLink LinkStat) :
    (s.recordLinks rows stat).work = Work.empty := rfl
@[simp] theorem State.recordLinks_pending (s : State) (rows : PerLink Reg32) (stat : PerLink LinkStat) :
    (s.recordLinks rows stat).pending = s.pending := rfl
@[simp] theorem State.recordLinks_readData (s : State) (rows : PerLink Reg32) (stat : PerLink LinkStat) :
    (s.recordLinks rows stat).readData = s.readData := rfl
@[simp] theorem State.recordLinks_draws (s : State) (rows : PerLink Reg32) (stat : PerLink LinkStat) :
    (s.recordLinks rows stat).draws = s.draws := rfl

/-! ### `State.deliver` -/

@[simp] theorem State.deliver_status (s : State) (blk : List BlockRow) (pos : Nat) :
    (s.deliver blk pos).status = s.status := rfl
@[simp] theorem State.deliver_outcome (s : State) (blk : List BlockRow) (pos : Nat) :
    (s.deliver blk pos).outcome = .block := rfl
@[simp] theorem State.deliver_remapEn (s : State) (blk : List BlockRow) (pos : Nat) :
    (s.deliver blk pos).remapEn = s.remapEn := rfl
@[simp] theorem State.deliver_nbytes (s : State) (blk : List BlockRow) (pos : Nat) :
    (s.deliver blk pos).nbytes = s.nbytes := rfl
@[simp] theorem State.deliver_nwords (s : State) (blk : List BlockRow) (pos : Nat) :
    (s.deliver blk pos).nwords = s.nwords := rfl
@[simp] theorem State.deliver_cursor (s : State) (blk : List BlockRow) (pos : Nat) :
    (s.deliver blk pos).cursor = BitVec.ofNat 32 pos := rfl
@[simp] theorem State.deliver_nominal (s : State) (blk : List BlockRow) (pos : Nat) :
    (s.deliver blk pos).nominal = s.nominal := rfl
@[simp] theorem State.deliver_maxRows (s : State) (blk : List BlockRow) (pos : Nat) :
    (s.deliver blk pos).maxRows = s.maxRows := rfl
@[simp] theorem State.deliver_nrows (s : State) (blk : List BlockRow) (pos : Nat) :
    (s.deliver blk pos).nrows = BitVec.ofNat 32 blk.length := rfl
@[simp] theorem State.deliver_linkRows (s : State) (blk : List BlockRow) (pos : Nat) :
    (s.deliver blk pos).linkRows = s.linkRows := rfl
@[simp] theorem State.deliver_linkStat (s : State) (blk : List BlockRow) (pos : Nat) :
    (s.deliver blk pos).linkStat = s.linkStat := rfl
@[simp] theorem State.deliver_bytebuf (s : State) (blk : List BlockRow) (pos : Nat) :
    (s.deliver blk pos).bytebuf = s.bytebuf := rfl
@[simp] theorem State.deliver_words (s : State) (blk : List BlockRow) (pos : Nat) :
    (s.deliver blk pos).words = s.words := rfl
@[simp] theorem State.deliver_perm (s : State) (blk : List BlockRow) (pos : Nat) :
    (s.deliver blk pos).perm = s.perm := rfl
@[simp] theorem State.deliver_permAct (s : State) (blk : List BlockRow) (pos : Nat) :
    (s.deliver blk pos).permAct = s.permAct := rfl
@[simp] theorem State.deliver_block (s : State) (blk : List BlockRow) (pos : Nat) :
    (s.deliver blk pos).block = blk := rfl
@[simp] theorem State.deliver_work (s : State) (blk : List BlockRow) (pos : Nat) :
    (s.deliver blk pos).work = s.work := rfl
@[simp] theorem State.deliver_pending (s : State) (blk : List BlockRow) (pos : Nat) :
    (s.deliver blk pos).pending = s.pending := rfl
@[simp] theorem State.deliver_readData (s : State) (blk : List BlockRow) (pos : Nat) :
    (s.deliver blk pos).readData = s.readData := rfl
@[simp] theorem State.deliver_draws (s : State) (blk : List BlockRow) (pos : Nat) :
    (s.deliver blk pos).draws = s.draws := rfl

/-! ### `State.raise` -/

@[simp] theorem State.raise_status (s : State) (x : OutcomeCode) (p : Nat) :
    (s.raise x p).status = s.status.afterRaise x := rfl
@[simp] theorem State.raise_outcome (s : State) (x : OutcomeCode) (p : Nat) :
    (s.raise x p).outcome = x := rfl
@[simp] theorem State.raise_remapEn (s : State) (x : OutcomeCode) (p : Nat) :
    (s.raise x p).remapEn = s.remapEn := rfl
@[simp] theorem State.raise_nbytes (s : State) (x : OutcomeCode) (p : Nat) :
    (s.raise x p).nbytes = s.nbytes := rfl
@[simp] theorem State.raise_nwords (s : State) (x : OutcomeCode) (p : Nat) :
    (s.raise x p).nwords = s.nwords := rfl
@[simp] theorem State.raise_cursor (s : State) (x : OutcomeCode) (p : Nat) :
    (s.raise x p).cursor = BitVec.ofNat 32 p := rfl
@[simp] theorem State.raise_nominal (s : State) (x : OutcomeCode) (p : Nat) :
    (s.raise x p).nominal = s.nominal := rfl
@[simp] theorem State.raise_maxRows (s : State) (x : OutcomeCode) (p : Nat) :
    (s.raise x p).maxRows = s.maxRows := rfl
@[simp] theorem State.raise_nrows (s : State) (x : OutcomeCode) (p : Nat) :
    (s.raise x p).nrows = 0#32 := rfl
@[simp] theorem State.raise_linkRows (s : State) (x : OutcomeCode) (p : Nat) :
    (s.raise x p).linkRows = s.linkRows := rfl
@[simp] theorem State.raise_linkStat (s : State) (x : OutcomeCode) (p : Nat) :
    (s.raise x p).linkStat = s.linkStat := rfl
@[simp] theorem State.raise_bytebuf (s : State) (x : OutcomeCode) (p : Nat) :
    (s.raise x p).bytebuf = s.bytebuf := rfl
@[simp] theorem State.raise_words (s : State) (x : OutcomeCode) (p : Nat) :
    (s.raise x p).words = s.words := rfl
@[simp] theorem State.raise_perm (s : State) (x : OutcomeCode) (p : Nat) :
    (s.raise x p).perm = s.perm := rfl
@[simp] theorem State.raise_permAct (s : State) (x : OutcomeCode) (p : Nat) :
    (s.raise x p).permAct = s.permAct := rfl
@[simp] theorem State.raise_block (s : State) (x : OutcomeCode) (p : Nat) :
    (s.raise x p).block = [] := rfl
@[simp] theorem State.raise_work (s : State) (x : OutcomeCode) (p : Nat) :
    (s.raise x p).work = s.work := rfl
@[simp] theorem State.raise_pending (s : State) (x : OutcomeCode) (p : Nat) :
    (s.raise x p).pending = s.pending := rfl
@[simp] theorem State.raise_readData (s : State) (x : OutcomeCode) (p : Nat) :
    (s.raise x p).readData = s.readData := rfl
@[simp] theorem State.raise_draws (s : State) (x : OutcomeCode) (p : Nat) :
    (s.raise x p).draws = s.draws := rfl

/-! ### `State.moveCursor` -/

@[simp] theorem State.moveCursor_status (s : State) (v : Reg32) :
    (s.moveCursor v).status = s.status := rfl
@[simp] theorem State.moveCursor_outcome (s : State) (v : Reg32) :
    (s.moveCursor v).outcome = s.outcome := rfl
@[simp] theorem State.moveCursor_remapEn (s : State) (v : Reg32) :
    (s.moveCursor v).remapEn = s.remapEn := rfl
@[simp] theorem State.moveCursor_nbytes (s : State) (v : Reg32) :
    (s.moveCursor v).nbytes = s.nbytes := rfl
@[simp] theorem State.moveCursor_nwords (s : State) (v : Reg32) :
    (s.moveCursor v).nwords = s.nwords := rfl
@[simp] theorem State.moveCursor_cursor (s : State) (v : Reg32) :
    (s.moveCursor v).cursor = v := rfl
@[simp] theorem State.moveCursor_nominal (s : State) (v : Reg32) :
    (s.moveCursor v).nominal = s.nominal := rfl
@[simp] theorem State.moveCursor_maxRows (s : State) (v : Reg32) :
    (s.moveCursor v).maxRows = s.maxRows := rfl
@[simp] theorem State.moveCursor_nrows (s : State) (v : Reg32) :
    (s.moveCursor v).nrows = s.nrows := rfl
@[simp] theorem State.moveCursor_linkRows (s : State) (v : Reg32) :
    (s.moveCursor v).linkRows = s.linkRows := rfl
@[simp] theorem State.moveCursor_linkStat (s : State) (v : Reg32) :
    (s.moveCursor v).linkStat = s.linkStat := rfl
@[simp] theorem State.moveCursor_bytebuf (s : State) (v : Reg32) :
    (s.moveCursor v).bytebuf = s.bytebuf := rfl
@[simp] theorem State.moveCursor_words (s : State) (v : Reg32) :
    (s.moveCursor v).words = s.words := rfl
@[simp] theorem State.moveCursor_perm (s : State) (v : Reg32) :
    (s.moveCursor v).perm = s.perm := rfl
@[simp] theorem State.moveCursor_permAct (s : State) (v : Reg32) :
    (s.moveCursor v).permAct = s.permAct := rfl
@[simp] theorem State.moveCursor_block (s : State) (v : Reg32) :
    (s.moveCursor v).block = s.block := rfl
@[simp] theorem State.moveCursor_work (s : State) (v : Reg32) :
    (s.moveCursor v).work = s.work := rfl
@[simp] theorem State.moveCursor_pending (s : State) (v : Reg32) :
    (s.moveCursor v).pending = s.pending := rfl
@[simp] theorem State.moveCursor_readData (s : State) (v : Reg32) :
    (s.moveCursor v).readData = s.readData := rfl
@[simp] theorem State.moveCursor_draws (s : State) (v : Reg32) :
    (s.moveCursor v).draws = s.draws := rfl

/-! ### `State.softReset` -/

@[simp] theorem State.softReset_status (s : State) :
    s.softReset.status = Status.clear := rfl
@[simp] theorem State.softReset_outcome (s : State) :
    s.softReset.outcome = s.outcome := rfl
@[simp] theorem State.softReset_remapEn (s : State) :
    s.softReset.remapEn = s.remapEn := rfl
@[simp] theorem State.softReset_nbytes (s : State) :
    s.softReset.nbytes = s.nbytes := rfl
@[simp] theorem State.softReset_nwords (s : State) :
    s.softReset.nwords = 0#32 := rfl
@[simp] theorem State.softReset_cursor (s : State) :
    s.softReset.cursor = 0#32 := rfl
@[simp] theorem State.softReset_nominal (s : State) :
    s.softReset.nominal = s.nominal := rfl
@[simp] theorem State.softReset_maxRows (s : State) :
    s.softReset.maxRows = s.maxRows := rfl
@[simp] theorem State.softReset_nrows (s : State) :
    s.softReset.nrows = 0#32 := rfl
@[simp] theorem State.softReset_linkRows (s : State) :
    s.softReset.linkRows = PerLink.const 0#32 := rfl
@[simp] theorem State.softReset_linkStat (s : State) :
    s.softReset.linkStat = PerLink.const .notRun := rfl
@[simp] theorem State.softReset_bytebuf (s : State) :
    s.softReset.bytebuf = s.bytebuf := rfl
@[simp] theorem State.softReset_words (s : State) :
    s.softReset.words = [] := rfl
@[simp] theorem State.softReset_perm (s : State) :
    s.softReset.perm = s.perm := rfl
@[simp] theorem State.softReset_permAct (s : State) :
    s.softReset.permAct = [] := rfl
@[simp] theorem State.softReset_block (s : State) :
    s.softReset.block = [] := rfl
@[simp] theorem State.softReset_work (s : State) :
    s.softReset.work = Work.empty := rfl
@[simp] theorem State.softReset_pending (s : State) :
    s.softReset.pending = s.pending := rfl
@[simp] theorem State.softReset_readData (s : State) :
    s.softReset.readData = s.readData := rfl
@[simp] theorem State.softReset_draws (s : State) :
    s.softReset.draws = s.draws := rfl

/-! ### `State.install` -/

@[simp] theorem State.install_status (s : State) (ws : List Word) (table : List Byte) :
    (s.install ws table).status = { s.status with configured := true } := rfl
@[simp] theorem State.install_outcome (s : State) (ws : List Word) (table : List Byte) :
    (s.install ws table).outcome = .none := rfl
@[simp] theorem State.install_remapEn (s : State) (ws : List Word) (table : List Byte) :
    (s.install ws table).remapEn = s.remapEn := rfl
@[simp] theorem State.install_nbytes (s : State) (ws : List Word) (table : List Byte) :
    (s.install ws table).nbytes = s.nbytes := rfl
@[simp] theorem State.install_nwords (s : State) (ws : List Word) (table : List Byte) :
    (s.install ws table).nwords = BitVec.ofNat 32 ws.length := rfl
@[simp] theorem State.install_cursor (s : State) (ws : List Word) (table : List Byte) :
    (s.install ws table).cursor = s.cursor := rfl
@[simp] theorem State.install_nominal (s : State) (ws : List Word) (table : List Byte) :
    (s.install ws table).nominal = s.nominal := rfl
@[simp] theorem State.install_maxRows (s : State) (ws : List Word) (table : List Byte) :
    (s.install ws table).maxRows = s.maxRows := rfl
@[simp] theorem State.install_nrows (s : State) (ws : List Word) (table : List Byte) :
    (s.install ws table).nrows = s.nrows := rfl
@[simp] theorem State.install_linkRows (s : State) (ws : List Word) (table : List Byte) :
    (s.install ws table).linkRows = s.linkRows := rfl
@[simp] theorem State.install_linkStat (s : State) (ws : List Word) (table : List Byte) :
    (s.install ws table).linkStat = s.linkStat := rfl
@[simp] theorem State.install_bytebuf (s : State) (ws : List Word) (table : List Byte) :
    (s.install ws table).bytebuf = s.bytebuf := rfl
@[simp] theorem State.install_words (s : State) (ws : List Word) (table : List Byte) :
    (s.install ws table).words = ws := rfl
@[simp] theorem State.install_perm (s : State) (ws : List Word) (table : List Byte) :
    (s.install ws table).perm = s.perm := rfl
@[simp] theorem State.install_permAct (s : State) (ws : List Word) (table : List Byte) :
    (s.install ws table).permAct = table := rfl
@[simp] theorem State.install_block (s : State) (ws : List Word) (table : List Byte) :
    (s.install ws table).block = s.block := rfl
@[simp] theorem State.install_work (s : State) (ws : List Word) (table : List Byte) :
    (s.install ws table).work = s.work := rfl
@[simp] theorem State.install_pending (s : State) (ws : List Word) (table : List Byte) :
    (s.install ws table).pending = s.pending := rfl
@[simp] theorem State.install_readData (s : State) (ws : List Word) (table : List Byte) :
    (s.install ws table).readData = s.readData := rfl
@[simp] theorem State.install_draws (s : State) (ws : List Word) (table : List Byte) :
    (s.install ws table).draws = s.draws := rfl

/-! ### `State.setDone` -/

@[simp] theorem State.setDone_status (s : State) :
    s.setDone.status = { s.status with done := true } := rfl
@[simp] theorem State.setDone_outcome (s : State) :
    s.setDone.outcome = s.outcome := rfl
@[simp] theorem State.setDone_remapEn (s : State) :
    s.setDone.remapEn = s.remapEn := rfl
@[simp] theorem State.setDone_nbytes (s : State) :
    s.setDone.nbytes = s.nbytes := rfl
@[simp] theorem State.setDone_nwords (s : State) :
    s.setDone.nwords = s.nwords := rfl
@[simp] theorem State.setDone_cursor (s : State) :
    s.setDone.cursor = s.cursor := rfl
@[simp] theorem State.setDone_nominal (s : State) :
    s.setDone.nominal = s.nominal := rfl
@[simp] theorem State.setDone_maxRows (s : State) :
    s.setDone.maxRows = s.maxRows := rfl
@[simp] theorem State.setDone_nrows (s : State) :
    s.setDone.nrows = s.nrows := rfl
@[simp] theorem State.setDone_linkRows (s : State) :
    s.setDone.linkRows = s.linkRows := rfl
@[simp] theorem State.setDone_linkStat (s : State) :
    s.setDone.linkStat = s.linkStat := rfl
@[simp] theorem State.setDone_bytebuf (s : State) :
    s.setDone.bytebuf = s.bytebuf := rfl
@[simp] theorem State.setDone_words (s : State) :
    s.setDone.words = s.words := rfl
@[simp] theorem State.setDone_perm (s : State) :
    s.setDone.perm = s.perm := rfl
@[simp] theorem State.setDone_permAct (s : State) :
    s.setDone.permAct = s.permAct := rfl
@[simp] theorem State.setDone_block (s : State) :
    s.setDone.block = s.block := rfl
@[simp] theorem State.setDone_work (s : State) :
    s.setDone.work = s.work := rfl
@[simp] theorem State.setDone_pending (s : State) :
    s.setDone.pending = s.pending := rfl
@[simp] theorem State.setDone_readData (s : State) :
    s.setDone.readData = s.readData := rfl
@[simp] theorem State.setDone_draws (s : State) :
    s.setDone.draws = s.draws := rfl

/-! ### `State.take` -/

@[simp] theorem State.take_status (s : State) (rest : List Request) :
    (s.take rest).status = s.status := rfl
@[simp] theorem State.take_outcome (s : State) (rest : List Request) :
    (s.take rest).outcome = s.outcome := rfl
@[simp] theorem State.take_remapEn (s : State) (rest : List Request) :
    (s.take rest).remapEn = s.remapEn := rfl
@[simp] theorem State.take_nbytes (s : State) (rest : List Request) :
    (s.take rest).nbytes = s.nbytes := rfl
@[simp] theorem State.take_nwords (s : State) (rest : List Request) :
    (s.take rest).nwords = s.nwords := rfl
@[simp] theorem State.take_cursor (s : State) (rest : List Request) :
    (s.take rest).cursor = s.cursor := rfl
@[simp] theorem State.take_nominal (s : State) (rest : List Request) :
    (s.take rest).nominal = s.nominal := rfl
@[simp] theorem State.take_maxRows (s : State) (rest : List Request) :
    (s.take rest).maxRows = s.maxRows := rfl
@[simp] theorem State.take_nrows (s : State) (rest : List Request) :
    (s.take rest).nrows = s.nrows := rfl
@[simp] theorem State.take_linkRows (s : State) (rest : List Request) :
    (s.take rest).linkRows = s.linkRows := rfl
@[simp] theorem State.take_linkStat (s : State) (rest : List Request) :
    (s.take rest).linkStat = s.linkStat := rfl
@[simp] theorem State.take_bytebuf (s : State) (rest : List Request) :
    (s.take rest).bytebuf = s.bytebuf := rfl
@[simp] theorem State.take_words (s : State) (rest : List Request) :
    (s.take rest).words = s.words := rfl
@[simp] theorem State.take_perm (s : State) (rest : List Request) :
    (s.take rest).perm = s.perm := rfl
@[simp] theorem State.take_permAct (s : State) (rest : List Request) :
    (s.take rest).permAct = s.permAct := rfl
@[simp] theorem State.take_block (s : State) (rest : List Request) :
    (s.take rest).block = s.block := rfl
@[simp] theorem State.take_work (s : State) (rest : List Request) :
    (s.take rest).work = s.work := rfl
@[simp] theorem State.take_pending (s : State) (rest : List Request) :
    (s.take rest).pending = rest := rfl
@[simp] theorem State.take_readData (s : State) (rest : List Request) :
    (s.take rest).readData = s.readData := rfl
@[simp] theorem State.take_draws (s : State) (rest : List Request) :
    (s.take rest).draws = s.draws + 1 := rfl

/-! ### `State.returnRead` -/

@[simp] theorem State.returnRead_status (s : State) (v : Reg32) :
    (s.returnRead v).status = s.status := rfl
@[simp] theorem State.returnRead_outcome (s : State) (v : Reg32) :
    (s.returnRead v).outcome = s.outcome := rfl
@[simp] theorem State.returnRead_remapEn (s : State) (v : Reg32) :
    (s.returnRead v).remapEn = s.remapEn := rfl
@[simp] theorem State.returnRead_nbytes (s : State) (v : Reg32) :
    (s.returnRead v).nbytes = s.nbytes := rfl
@[simp] theorem State.returnRead_nwords (s : State) (v : Reg32) :
    (s.returnRead v).nwords = s.nwords := rfl
@[simp] theorem State.returnRead_cursor (s : State) (v : Reg32) :
    (s.returnRead v).cursor = s.cursor := rfl
@[simp] theorem State.returnRead_nominal (s : State) (v : Reg32) :
    (s.returnRead v).nominal = s.nominal := rfl
@[simp] theorem State.returnRead_maxRows (s : State) (v : Reg32) :
    (s.returnRead v).maxRows = s.maxRows := rfl
@[simp] theorem State.returnRead_nrows (s : State) (v : Reg32) :
    (s.returnRead v).nrows = s.nrows := rfl
@[simp] theorem State.returnRead_linkRows (s : State) (v : Reg32) :
    (s.returnRead v).linkRows = s.linkRows := rfl
@[simp] theorem State.returnRead_linkStat (s : State) (v : Reg32) :
    (s.returnRead v).linkStat = s.linkStat := rfl
@[simp] theorem State.returnRead_bytebuf (s : State) (v : Reg32) :
    (s.returnRead v).bytebuf = s.bytebuf := rfl
@[simp] theorem State.returnRead_words (s : State) (v : Reg32) :
    (s.returnRead v).words = s.words := rfl
@[simp] theorem State.returnRead_perm (s : State) (v : Reg32) :
    (s.returnRead v).perm = s.perm := rfl
@[simp] theorem State.returnRead_permAct (s : State) (v : Reg32) :
    (s.returnRead v).permAct = s.permAct := rfl
@[simp] theorem State.returnRead_block (s : State) (v : Reg32) :
    (s.returnRead v).block = s.block := rfl
@[simp] theorem State.returnRead_work (s : State) (v : Reg32) :
    (s.returnRead v).work = s.work := rfl
@[simp] theorem State.returnRead_pending (s : State) (v : Reg32) :
    (s.returnRead v).pending = s.pending := rfl
@[simp] theorem State.returnRead_readData (s : State) (v : Reg32) :
    (s.returnRead v).readData = v := rfl
@[simp] theorem State.returnRead_draws (s : State) (v : Reg32) :
    (s.returnRead v).draws = s.draws := rfl

/-! ### `State.noteLinks` -/

@[simp] theorem State.noteLinks_status (s : State) (done : List LinkResult) :
    (s.noteLinks done).status = s.status := rfl
@[simp] theorem State.noteLinks_outcome (s : State) (done : List LinkResult) :
    (s.noteLinks done).outcome = s.outcome := rfl
@[simp] theorem State.noteLinks_remapEn (s : State) (done : List LinkResult) :
    (s.noteLinks done).remapEn = s.remapEn := rfl
@[simp] theorem State.noteLinks_nbytes (s : State) (done : List LinkResult) :
    (s.noteLinks done).nbytes = s.nbytes := rfl
@[simp] theorem State.noteLinks_nwords (s : State) (done : List LinkResult) :
    (s.noteLinks done).nwords = s.nwords := rfl
@[simp] theorem State.noteLinks_cursor (s : State) (done : List LinkResult) :
    (s.noteLinks done).cursor = s.cursor := rfl
@[simp] theorem State.noteLinks_nominal (s : State) (done : List LinkResult) :
    (s.noteLinks done).nominal = s.nominal := rfl
@[simp] theorem State.noteLinks_maxRows (s : State) (done : List LinkResult) :
    (s.noteLinks done).maxRows = s.maxRows := rfl
@[simp] theorem State.noteLinks_nrows (s : State) (done : List LinkResult) :
    (s.noteLinks done).nrows = 0#32 := rfl
@[simp] theorem State.noteLinks_linkRows (s : State) (done : List LinkResult) :
    (s.noteLinks done).linkRows = perLinkOf linkRowsOf 0#32 done := rfl
@[simp] theorem State.noteLinks_linkStat (s : State) (done : List LinkResult) :
    (s.noteLinks done).linkStat = perLinkOf linkStatOf .notRun done := rfl
@[simp] theorem State.noteLinks_bytebuf (s : State) (done : List LinkResult) :
    (s.noteLinks done).bytebuf = s.bytebuf := rfl
@[simp] theorem State.noteLinks_words (s : State) (done : List LinkResult) :
    (s.noteLinks done).words = s.words := rfl
@[simp] theorem State.noteLinks_perm (s : State) (done : List LinkResult) :
    (s.noteLinks done).perm = s.perm := rfl
@[simp] theorem State.noteLinks_permAct (s : State) (done : List LinkResult) :
    (s.noteLinks done).permAct = s.permAct := rfl
@[simp] theorem State.noteLinks_block (s : State) (done : List LinkResult) :
    (s.noteLinks done).block = [] := rfl
@[simp] theorem State.noteLinks_work (s : State) (done : List LinkResult) :
    (s.noteLinks done).work = Work.empty := rfl
@[simp] theorem State.noteLinks_pending (s : State) (done : List LinkResult) :
    (s.noteLinks done).pending = s.pending := rfl
@[simp] theorem State.noteLinks_readData (s : State) (done : List LinkResult) :
    (s.noteLinks done).readData = s.readData := rfl
@[simp] theorem State.noteLinks_draws (s : State) (done : List LinkResult) :
    (s.noteLinks done).draws = s.draws := rfl

/-! ### `State.externalReset` -/

@[simp] theorem State.externalReset_status (s : State) :
    s.externalReset.status = State.reset.status := rfl
@[simp] theorem State.externalReset_outcome (s : State) :
    s.externalReset.outcome = State.reset.outcome := rfl
@[simp] theorem State.externalReset_remapEn (s : State) :
    s.externalReset.remapEn = State.reset.remapEn := rfl
@[simp] theorem State.externalReset_nbytes (s : State) :
    s.externalReset.nbytes = State.reset.nbytes := rfl
@[simp] theorem State.externalReset_nwords (s : State) :
    s.externalReset.nwords = State.reset.nwords := rfl
@[simp] theorem State.externalReset_cursor (s : State) :
    s.externalReset.cursor = State.reset.cursor := rfl
@[simp] theorem State.externalReset_nominal (s : State) :
    s.externalReset.nominal = State.reset.nominal := rfl
@[simp] theorem State.externalReset_maxRows (s : State) :
    s.externalReset.maxRows = State.reset.maxRows := rfl
@[simp] theorem State.externalReset_nrows (s : State) :
    s.externalReset.nrows = State.reset.nrows := rfl
@[simp] theorem State.externalReset_linkRows (s : State) :
    s.externalReset.linkRows = State.reset.linkRows := rfl
@[simp] theorem State.externalReset_linkStat (s : State) :
    s.externalReset.linkStat = State.reset.linkStat := rfl
@[simp] theorem State.externalReset_bytebuf (s : State) :
    s.externalReset.bytebuf = State.reset.bytebuf := rfl
@[simp] theorem State.externalReset_words (s : State) :
    s.externalReset.words = State.reset.words := rfl
@[simp] theorem State.externalReset_perm (s : State) :
    s.externalReset.perm = State.reset.perm := rfl
@[simp] theorem State.externalReset_permAct (s : State) :
    s.externalReset.permAct = State.reset.permAct := rfl
@[simp] theorem State.externalReset_block (s : State) :
    s.externalReset.block = State.reset.block := rfl
@[simp] theorem State.externalReset_work (s : State) :
    s.externalReset.work = State.reset.work := rfl
@[simp] theorem State.externalReset_pending (s : State) :
    s.externalReset.pending = s.pending := rfl
@[simp] theorem State.externalReset_readData (s : State) :
    s.externalReset.readData = State.reset.readData := rfl
@[simp] theorem State.externalReset_draws (s : State) :
    s.externalReset.draws = s.draws := rfl

/-! ### Values per link -/

@[simp] theorem PerLink.const_get {α : Type} (x : α) (i : Fin 4) : (PerLink.const x).get i = x := by
  match i with
  | 0 => rfl
  | 1 => rfl
  | 2 => rfl
  | 3 => rfl

@[simp] theorem PerLink.get_set_same {α : Type} (p : PerLink α) (i : Fin 4) (x : α) : (p.set i x).get i = x := by
  match i with
  | 0 => rfl
  | 1 => rfl
  | 2 => rfl
  | 3 => rfl

theorem PerLink.get_set_other {α : Type} (p : PerLink α) (i j : Fin 4) (x : α) (h : j ≠ i) :
    (p.set i x).get j = p.get j := by
  match i, j with
  | 0, 0 => exact absurd rfl h
  | 0, 1 => rfl
  | 0, 2 => rfl
  | 0, 3 => rfl
  | 1, 0 => rfl
  | 1, 1 => exact absurd rfl h
  | 1, 2 => rfl
  | 1, 3 => rfl
  | 2, 0 => rfl
  | 2, 1 => rfl
  | 2, 2 => exact absurd rfl h
  | 2, 3 => rfl
  | 3, 0 => rfl
  | 3, 1 => rfl
  | 3, 2 => rfl
  | 3, 3 => exact absurd rfl h

/-! ### What the marker of POLL keeps (R175) -/

theorem State.markEnd_eq (s : State) : s.markEnd = s ∨ s.outcome = .endOfData ∧ s.markEnd = s.setDone := by
  unfold State.markEnd
  split
  · next h => exact .inr ⟨h, rfl⟩
  · exact .inl rfl

@[simp] theorem State.markEnd_outcome (s : State) : s.markEnd.outcome = s.outcome := by
  rcases s.markEnd_eq with h | ⟨_, h⟩ <;> rw [h]; rfl
@[simp] theorem State.markEnd_remapEn (s : State) : s.markEnd.remapEn = s.remapEn := by
  rcases s.markEnd_eq with h | ⟨_, h⟩ <;> rw [h]; rfl
@[simp] theorem State.markEnd_nbytes (s : State) : s.markEnd.nbytes = s.nbytes := by
  rcases s.markEnd_eq with h | ⟨_, h⟩ <;> rw [h]; rfl
@[simp] theorem State.markEnd_nwords (s : State) : s.markEnd.nwords = s.nwords := by
  rcases s.markEnd_eq with h | ⟨_, h⟩ <;> rw [h]; rfl
@[simp] theorem State.markEnd_cursor (s : State) : s.markEnd.cursor = s.cursor := by
  rcases s.markEnd_eq with h | ⟨_, h⟩ <;> rw [h]; rfl
@[simp] theorem State.markEnd_nominal (s : State) : s.markEnd.nominal = s.nominal := by
  rcases s.markEnd_eq with h | ⟨_, h⟩ <;> rw [h]; rfl
@[simp] theorem State.markEnd_maxRows (s : State) : s.markEnd.maxRows = s.maxRows := by
  rcases s.markEnd_eq with h | ⟨_, h⟩ <;> rw [h]; rfl
@[simp] theorem State.markEnd_nrows (s : State) : s.markEnd.nrows = s.nrows := by
  rcases s.markEnd_eq with h | ⟨_, h⟩ <;> rw [h]; rfl
@[simp] theorem State.markEnd_linkRows (s : State) : s.markEnd.linkRows = s.linkRows := by
  rcases s.markEnd_eq with h | ⟨_, h⟩ <;> rw [h]; rfl
@[simp] theorem State.markEnd_linkStat (s : State) : s.markEnd.linkStat = s.linkStat := by
  rcases s.markEnd_eq with h | ⟨_, h⟩ <;> rw [h]; rfl
@[simp] theorem State.markEnd_bytebuf (s : State) : s.markEnd.bytebuf = s.bytebuf := by
  rcases s.markEnd_eq with h | ⟨_, h⟩ <;> rw [h]; rfl
@[simp] theorem State.markEnd_words (s : State) : s.markEnd.words = s.words := by
  rcases s.markEnd_eq with h | ⟨_, h⟩ <;> rw [h]; rfl
@[simp] theorem State.markEnd_perm (s : State) : s.markEnd.perm = s.perm := by
  rcases s.markEnd_eq with h | ⟨_, h⟩ <;> rw [h]; rfl
@[simp] theorem State.markEnd_permAct (s : State) : s.markEnd.permAct = s.permAct := by
  rcases s.markEnd_eq with h | ⟨_, h⟩ <;> rw [h]; rfl
@[simp] theorem State.markEnd_block (s : State) : s.markEnd.block = s.block := by
  rcases s.markEnd_eq with h | ⟨_, h⟩ <;> rw [h]; rfl
@[simp] theorem State.markEnd_work (s : State) : s.markEnd.work = s.work := by
  rcases s.markEnd_eq with h | ⟨_, h⟩ <;> rw [h]; rfl
@[simp] theorem State.markEnd_pending (s : State) : s.markEnd.pending = s.pending := by
  rcases s.markEnd_eq with h | ⟨_, h⟩ <;> rw [h]; rfl
@[simp] theorem State.markEnd_readData (s : State) : s.markEnd.readData = s.readData := by
  rcases s.markEnd_eq with h | ⟨_, h⟩ <;> rw [h]; rfl
@[simp] theorem State.markEnd_draws (s : State) : s.markEnd.draws = s.draws := by
  rcases s.markEnd_eq with h | ⟨_, h⟩ <;> rw [h]; rfl

end Sys2Proof.Machine
end

