-- ==== Sys2Proof/Laws/Driver.lean ====
section
/-! SUPPORT. What the Decode driver can do (R172, R173), said once: MAKE_LINK on a state, the loop over the links,
DECODE_BODY, CONFIGURE. -/

namespace Sys2Proof.Machine

/-- MAKE_LINK on a state, by outcome (R122, R126). -/
theorem State.makeLink_cases (s : State) (pos : Nat) :
    pos ≤ (s.makeLink pos).fail ∧
    (((s.makeLink pos).out = .corrupt ∧ (s.makeLink pos).next = (s.makeLink pos).fail ∧
        field32 s.wordAt ((s.makeLink pos).fail + 2) ≠ 0#32 ∧ (s.makeLink pos).fail + 4 ≤ s.numWords) ∨
     ((s.makeLink pos).out = .exceeded ∧ (s.makeLink pos).fail + 4 ≤ s.numWords ∧
        s.maxRows.toNat < rowCount (s.makeLink pos).buf) ∨
     ((s.makeLink pos).out = .complete ∧ pos + 4 ≤ (s.makeLink pos).next ∧ (s.makeLink pos).next + 4 ≤ s.numWords ∧
        field32 s.wordAt ((s.makeLink pos).next + 2) = 0#32 ∧ rowCount (s.makeLink pos).buf ≤ s.maxRows.toNat) ∨
     ((s.makeLink pos).out = .truncated ∧ seekNext s.wordAt s.numWords (s.makeLink pos).fail = .endOfData ∧
        (s.makeLink pos).fail + 4 ≤ s.numWords ∧ (s.makeLink pos).next = s.numWords ∧
        rowCount (s.makeLink pos).buf ≤ s.maxRows.toNat ∧
        ∃ before, (s.makeLink pos).buf = append s.wordAt ((s.makeLink pos).fail + 4) s.numWords before) ∨
     ((s.makeLink pos).out = .truncated ∧ s.numWords < pos + 4 ∧ (s.makeLink pos).next = pos ∧
        (s.makeLink pos).fail = pos ∧ (s.makeLink pos).buf = [])) :=
  makeLinkFrom_cases (by omega) (by omega) rfl

/-- One pass of the loop over the links, as an equation. -/
theorem decodeLinks_succ (s : State) (left pos : Nat) (done : List LinkResult) :
    decodeLinks s (left + 1) pos done =
      match (s.makeLink pos).out with
      | .corrupt => .failed .corruptStream (s.makeLink pos).fail done
      | .exceeded => .failed .exceededMaxRows (s.makeLink pos).fail done
      | .complete => decodeLinks s left (s.makeLink pos).next (done ++ [s.makeLink pos])
      | .truncated =>
        if left = 0 then .finished (s.makeLink pos).next (done ++ [s.makeLink pos])
        else .failed .shortRead (s.makeLink pos).fail (done ++ [s.makeLink pos]) := rfl

/-- A link the loop counts as finished kept the row bound. -/
def FinishedLink (s : State) (r : LinkResult) : Prop :=
  (r.out = .complete ∨ r.out = .truncated) ∧ rowCount r.buf ≤ s.maxRows.toNat

/-- What the loop over the links can end with, from a readable header on. -/
theorem decodeLinks_cases (s : State) (left pos : Nat) (done : List LinkResult)
    (hpos : pos + 4 ≤ s.numWords) (hdone : ∀ r ∈ done, FinishedLink s r) :
    (∃ x p d, decodeLinks s left pos done = .failed x p d ∧ pos ≤ p ∧ p + 4 ≤ s.numWords ∧
      (x = .corruptStream ∨ x = .exceededMaxRows ∨ x = .shortRead) ∧ ∀ r ∈ d, FinishedLink s r) ∨
    (∃ p d, decodeLinks s left pos done = .finished p d ∧ pos ≤ p ∧ p ≤ s.numWords ∧
      d.length = done.length + left ∧ ∀ r ∈ d, FinishedLink s r) := by
  induction left generalizing pos done with
  | zero => exact .inr ⟨pos, done, rfl, Nat.le_refl _, by omega, rfl, hdone⟩
  | succ left ih =>
    rw [decodeLinks_succ]
    obtain ⟨h0, h⟩ := s.makeLink_cases pos
    rcases h with ⟨h, -, -, hp⟩ | ⟨h, hp, -⟩ | ⟨h, h1, h2, -, h3⟩ | ⟨h, -, hp, hn, h3, -⟩ | ⟨-, h1, -⟩
    · exact .inl ⟨_, _, _, by rw [h], h0, hp, .inl rfl, hdone⟩
    · exact .inl ⟨_, _, _, by rw [h], h0, hp, .inr (.inl rfl), hdone⟩
    · rw [h]
      have hd : ∀ r ∈ done ++ [s.makeLink pos], FinishedLink s r := by
        intro r hr
        rcases List.mem_append.1 hr with hr | hr
        · exact hdone r hr
        · rw [List.mem_singleton.1 hr]; exact ⟨.inl h, h3⟩
      rcases ih (s.makeLink pos).next _ h2 hd with ⟨x, p, d, he, ha, hb, hc, hx⟩ | ⟨p, d, he, ha, hb, hc, hx⟩
      · exact .inl ⟨x, p, d, he, by omega, hb, hc, hx⟩
      · refine .inr ⟨p, d, he, by omega, hb, ?_, hx⟩
        rw [hc, List.length_append, List.length_singleton]
        omega
    · rw [h]
      have hd : ∀ r ∈ done ++ [s.makeLink pos], FinishedLink s r := by
        intro r hr
        rcases List.mem_append.1 hr with hr | hr
        · exact hdone r hr
        · rw [List.mem_singleton.1 hr]; exact ⟨.inr h, h3⟩
      by_cases hl : left = 0
      · refine .inr ⟨_, _, by simp [hl], by omega, Nat.le_of_eq hn, ?_, hd⟩
        simp [hl]
      · exact .inl ⟨_, _, _, by simp [hl], h0, hp, .inr (.inr rfl), hd⟩
    · omega

/-- What DECODE_BODY can do. -/
theorem decodeBody_cases (s : State) :
    (s.cursor.toNat + 4 > s.numWords ∧ decodeBody s = (s.noteLinks []).setOutcome .endOfData) ∨
    (s.cursor.toNat + 4 ≤ s.numWords ∧ ∃ x p done, decodeBody s = (s.noteLinks done).raise x p ∧
      decodeLinks s 4 s.cursor.toNat [] = .failed x p done ∧ s.cursor.toNat ≤ p ∧ p + 4 ≤ s.numWords ∧
      (x = .corruptStream ∨ x = .exceededMaxRows ∨ x = .shortRead) ∧ ∀ r ∈ done, FinishedLink s r) ∨
    (s.cursor.toNat + 4 ≤ s.numWords ∧ ∃ p done,
      decodeBody s = (s.noteLinks done).deliver (s.triggerBlock done) p ∧
      decodeLinks s 4 s.cursor.toNat [] = .finished p done ∧ s.cursor.toNat ≤ p ∧ p ≤ s.numWords ∧
      done.length = 4 ∧ ∀ r ∈ done, FinishedLink s r) := by
  by_cases h : s.cursor.toNat + 4 > s.numWords
  · exact .inl ⟨h, by simp [decodeBody, h]⟩
  · right
    have h' : s.cursor.toNat + 4 ≤ s.numWords := by omega
    rcases decodeLinks_cases s 4 s.cursor.toNat [] h' (by simp) with
      ⟨x, p, d, he, h1, h2, h3, h4⟩ | ⟨p, d, he, h1, h2, h3, h4⟩
    · exact .inl ⟨h', x, p, d, by simp [decodeBody, h, he], he, h1, h2, h3, h4⟩
    · exact .inr ⟨h', p, d, by simp [decodeBody, h, he], he, h1, h2, by simpa using h3, h4⟩

/-- What CONFIGURE can do (R171). -/
theorem configureWith_cases (cap : Nat) (s : State) :
    ((s.nbytes = 0#32 ∨ s.nbytes.toNat > cap ∨ verifyTable s.permTable = false) ∧
      configureWith cap s = s.softReset.setOutcome .configurationError) ∨
    (s.nbytes ≠ 0#32 ∧ s.nbytes.toNat ≤ cap ∧ verifyTable s.permTable = true ∧
      configureWith cap s = s.softReset.install (wordStream s.byteAt (s.nbytes.toNat / 2)) s.permTable) := by
  unfold configureWith
  by_cases h : s.nbytes = 0#32 ∨ s.nbytes.toNat > cap
  · exact .inl ⟨by tauto, by simp [h]⟩
  · by_cases hv : verifyTable s.permTable = true
    · exact .inr ⟨by tauto, by omega, hv, by simp [h, hv]⟩
    · exact .inl ⟨by simp_all, by simp [h, hv]⟩

@[simp] theorem wordStream_length (B : Nat → Byte) (n : Nat) : (wordStream B n).length = n := by simp [wordStream]

/-- The k-th Word of the stream is READ_WORD(k) (R102). -/
theorem wordStream_getElem (B : Nat → Byte) (n k : Nat) (h : k < (wordStream B n).length) :
    (wordStream B n)[k] = readWord B k := by simp [wordStream]

/-- What DECODE can do (R172). -/
theorem execDecode_cases (s : State) :
    (s.status.configured = false ∧ execDecode s = .next (s.setOutcome .none)) ∨
    (s.status.configured = true ∧ s.status.fatal = true ∧ execDecode s = .next (s.setOutcome .exceededMaxRows)) ∨
    (s.status.configured = true ∧ s.status.fatal = false ∧ execDecode s = .next (decodeBody s)) := by
  unfold execDecode
  cases s.status.configured <;> cases s.status.fatal <;> simp

/-- What POLL can do (R175). -/
theorem execPoll_cases (s : State) :
    ((s.status.configured = false ∨ s.status.done = true) ∧ execPoll s = .next (s.setOutcome .none)) ∨
    (s.status.configured = true ∧ s.status.done = false ∧ s.status.fatal = true ∧
      execPoll s = .next (s.setOutcome .exceededMaxRows)) ∨
    (s.status.configured = true ∧ s.status.done = false ∧ s.status.fatal = false ∧
      execPoll s = .next (decodeBody s).markEnd) := by
  unfold execPoll
  cases s.status.configured <;> cases s.status.done <;> cases s.status.fatal <;> simp

end Sys2Proof.Machine
end

