-- ==== Sys2Proof/Laws/Step.lean ====
section
/-! SUPPORT. What an operation, a request and a step can do, said once (R20, R177). -/

namespace Sys2Proof.Machine

/-- The four host commands (R6, R82). -/
def isCommand : Instr → Bool
  | .nop => true
  | .configure => true
  | .decode => true
  | .poll => true
  | .readWord _ => false
  | .field32 _ => false
  | .seekNext _ => false
  | .append _ _ => false
  | .makeLink _ => false
  | .rowCount => false
  | .unpackGroup _ _ _ => false
  | .unpackRow _ => false
  | .unpackLink _ => false
  | .assemble => false
  | .verifyTable => false
  | .remap => false

/-- A unit operation always answers, and changes the transient state only (R40). -/
theorem exec_unit (i : Instr) (s : State) (h : isCommand i = false) : ∃ w, exec i s = .next (s.setWork w) := by
  cases i with
  | nop => cases h
  | configure => cases h
  | decode => cases h
  | poll => cases h
  | readWord i => exact ⟨_, rfl⟩
  | field32 k => exact ⟨_, rfl⟩
  | seekNext pos => exact ⟨_, rfl⟩
  | append start stop => exact ⟨_, rfl⟩
  | makeLink pos => exact ⟨_, rfl⟩
  | rowCount => exact ⟨_, rfl⟩
  | unpackGroup w0 w1 w2 => exact ⟨_, rfl⟩
  | unpackRow row => exact ⟨_, rfl⟩
  | unpackLink i => exact ⟨_, rfl⟩
  | assemble => exact ⟨_, rfl⟩
  | verifyTable => exact ⟨_, rfl⟩
  | remap => exact ⟨_, rfl⟩

/-- What an operation's next state can be. -/
theorem exec_next_cases {i : Instr} {s t : State} (h : exec i s = .next t) :
    (i = .nop ∧ t = s) ∨
    (i = .configure ∧ t = configureWith Config.bytebufCap s) ∨
    (i = .decode ∧ execDecode s = .next t) ∨
    (i = .poll ∧ execPoll s = .next t) ∨
    (isCommand i = false ∧ ∃ w, t = s.setWork w) := by
  cases hc : isCommand i with
  | false =>
    obtain ⟨w, hw⟩ := exec_unit i s hc
    rw [hw] at h
    cases h
    exact .inr (.inr (.inr (.inr ⟨rfl, w, rfl⟩)))
  | true =>
    cases i with
    | nop => cases h; exact .inl ⟨rfl, rfl⟩
    | configure => cases h; exact .inr (.inl ⟨rfl, rfl⟩)
    | decode => exact .inr (.inr (.inl ⟨rfl, h⟩))
    | poll => exact .inr (.inr (.inr (.inl ⟨rfl, h⟩)))
    | readWord i => cases hc
    | field32 k => cases hc
    | seekNext pos => cases hc
    | append start stop => cases hc
    | makeLink pos => cases hc
    | rowCount => cases hc
    | unpackGroup w0 w1 w2 => cases hc
    | unpackRow row => cases hc
    | unpackLink i => cases hc
    | assemble => cases hc
    | verifyTable => cases hc
    | remap => cases hc

/-- Only a write to CMD can hold a reserved code (R83). -/
theorem decodeUnit_ne_reserved (f : UnitFrame) (c : Byte) : decodeUnit f ≠ .reserved c := by
  unfold decodeUnit
  split <;> (try split) <;> (try split) <;> (intro h; cases h)

/-- What serving one request can lead to. -/
theorem serve_next_cases {s t : State} {r : Request} (h : serve s r = .next t) :
    (∃ i v, r = .access (.wr regCmd v) ∧ decodeCmd v = .instr i ∧ exec i s = .next t) ∨
    (∃ v, r = .access (.wr regCmd v) ∧ (∀ i, decodeCmd v ≠ .instr i) ∧ t = s) ∨
    (∃ reg v, r = .access (.wr reg v) ∧ reg ≠ regCmd ∧ t = writeReg s reg v) ∨
    (∃ v, ((∃ reg, r = .access (.rd reg)) ∨ ∃ space i, r = .access (.rdm space i)) ∧ t = s.returnRead v) ∨
    (∃ space i v, r = .access (.wrm space i v) ∧ inSpace space i = true ∧ t = writeElem s space i v) ∨
    (r = .reset ∧ t = s.externalReset) ∨
    (∃ f i, r = .unit f ∧ decodeUnit f = .instr i ∧ wellFormed i = true ∧ exec i s = .next t) := by
  cases r with
  | reset => cases h; exact .inr (.inr (.inr (.inr (.inr (.inl ⟨rfl, rfl⟩)))))
  | unit f =>
    simp only [serve, runUnit, decode] at h
    cases hd : decodeUnit f with
    | instr i =>
      simp only [hd] at h
      split at h
      · next hw => exact .inr (.inr (.inr (.inr (.inr (.inr ⟨f, i, rfl, hd, hw, h⟩)))))
      · cases h
    | reserved c =>
      exact absurd hd (decodeUnit_ne_reserved f c)
    | badOperands op => simp only [hd] at h; cases h
  | access a =>
    cases a with
    | wr reg v =>
      simp only [serve, serveAccess] at h
      split at h
      · next hreg =>
        subst hreg
        simp only [runCmd, decode] at h
        cases hd : decodeCmd v with
        | instr i => rw [hd] at h; exact .inl ⟨i, v, rfl, hd, h⟩
        | reserved c =>
          rw [hd] at h
          cases h
          exact .inr (.inl ⟨v, rfl, by simp [hd], rfl⟩)
        | badOperands op => rw [hd] at h; cases h
      · next hreg => cases h; exact .inr (.inr (.inl ⟨reg, v, rfl, hreg, rfl⟩))
    | rd reg => cases h; exact .inr (.inr (.inr (.inl ⟨_, .inl ⟨reg, rfl⟩, rfl⟩)))
    | wrm space i v =>
      simp only [serve, serveAccess, serveWriteElem] at h
      split at h
      · next hin => cases h; exact .inr (.inr (.inr (.inr (.inl ⟨space, i, v, rfl, hin, rfl⟩))))
      · cases h
    | rdm space i =>
      simp only [serve, serveAccess, serveReadElem] at h
      split at h
      · cases h; exact .inr (.inr (.inr (.inl ⟨_, .inr ⟨space, i, rfl⟩, rfl⟩)))
      · cases h

/-- What a step can do: nothing is pending, or the first request is served. -/
theorem step_next_cases {s t : State} (h : step s = .next t) :
    (s.pending = [] ∧ t = s) ∨ ∃ r rest, s.pending = r :: rest ∧ serve (s.take rest) r = .next t := by
  unfold step at h
  split at h
  · next hp => cases h; exact .inl ⟨hp, rfl⟩
  · next r rest hp => exact .inr ⟨r, rest, hp, h⟩

/-- The next step with request `r` first. -/
theorem step_cons {s : State} {r : Request} {rest : List Request} (h : s.pending = r :: rest) :
    step s = serve (s.take rest) r := by simp only [step, h]

end Sys2Proof.Machine
end

