-- ==== Sys2Proof/Safety.lean ====
section
/-! DEFINITION. What holds of the core between its steps, in the terms the statements use: the invariant, the inputs
of a decode and its visible result (46_decode_driver.md R176), and the chain of links of one trigger (R172). -/

namespace Sys2Proof.Machine

/-- A table as REMAP needs it: 128 entries that passed VERIFY_TABLE (R35, R160). -/
def verifiedTable (t : List Byte) : Prop := t.length = 128 ∧ verifyTable t = true

/-- A row of BLOCK: 128 cells, each in 0 to 4095 (R36, R79). -/
def blockRowOk (row : BlockRow) : Prop := row.length = 128 ∧ ∀ v ∈ row, v.toNat ≤ 4095

/-- The invariant of the core between steps. -/
structure Inv (s : State) : Prop where
  /-- BYTEBUF is in canonical form -/
  bytebufCanonical : Memory.wf s.bytebuf
  /-- PERM is in canonical form -/
  permCanonical : Memory.wf s.perm
  /-- no element outside BYTEBUF holds a value (R38) -/
  bytebufInside : ∀ c ∈ s.bytebuf, c.1 < Config.bytebufCap
  /-- no element outside PERM holds a value (R38) -/
  permInside : ∀ c ∈ s.perm, c.1 < 128
  /-- NWORDS is the length of the RawWordStream (R26, R33) -/
  wordsLength : s.words.length = s.nwords.toNat
  /-- "N <= 2^31 - 1" (R26) -/
  wordsBound : s.nwords.toNat ≤ maxWords
  /-- while CONFIGURED = 1 the active table is a bijection over [1,128] (R35) -/
  tableVerified : s.status.configured = true → verifiedTable s.permAct
  /-- an unconfigured core has no stream, no flag and no block (R171, R195) -/
  unconfigured : s.status.configured = false →
    s.nwords = 0#32 ∧ s.nrows = 0#32 ∧ s.status.fatal = false ∧ s.status.done = false
  /-- NROWS is the row count of the block in BLOCK (R30) -/
  blockLength : s.block.length = s.nrows.toNat
  /-- every element of BLOCK with r < NROWS is in 0 to 4095 (R36) -/
  blockShape : ∀ row ∈ s.block, blockRowOk row
  /-- no block stands beside an error outcome (R30, R199; log entry 8) -/
  blockOutcome : s.nrows ≠ 0#32 → s.outcome = .block ∨ s.outcome = .none
  /-- FATAL excludes a block (R194, R199) -/
  fatalNoBlock : s.status.fatal = true → s.nrows = 0#32
  /-- LINK_ROWS is 0 for a link that is NOT_RUN (R30, R31) -/
  linkNotRun : ∀ i : Fin 4, s.linkStat.get i = .notRun → s.linkRows.get i = 0#32

/-- `s` and `t` agree on what R176 lists as the operands of DECODE: "WORDS, N, CURSOR, NOMINAL, MAX_ROWS, CTRL,
PERM_ACT and STATUS". -/
structure SameDecodeInputs (s t : State) : Prop where
  words : s.words = t.words
  nwords : s.nwords = t.nwords
  cursor : s.cursor = t.cursor
  nominal : s.nominal = t.nominal
  maxRows : s.maxRows = t.maxRows
  remapEn : s.remapEn = t.remapEn
  permAct : s.permAct = t.permAct
  status : s.status = t.status

/-- `s` and `t` agree on what R176 lists as the result of DECODE: "OUTCOME, CURSOR, NROWS, LINK_ROWS, LINKSTAT,
STATUS and `BLOCK[0 .. NROWS-1][0..127]`". -/
structure SameDecodeResult (s t : State) : Prop where
  outcome : s.outcome = t.outcome
  cursor : s.cursor = t.cursor
  nrows : s.nrows = t.nrows
  linkRows : s.linkRows = t.linkRows
  linkStat : s.linkStat = t.linkStat
  status : s.status = t.status
  block : s.block = t.block

/-- `rs` are the results of MAKE_LINK called one after another from `pos` on, each call at the `next_pos` of the one
before, every result but the last `Complete` (R172). -/
def LinkChain (s : State) : Nat → List LinkResult → Prop
  | _, [] => False
  | pos, [r] => r = s.makeLink pos
  | pos, r :: rest => r = s.makeLink pos ∧ r.out = .complete ∧ LinkChain s r.next rest

/-- The core is ready to run DECODE_BODY: configured, not fatal (R172). -/
def readyToDecode (s : State) : Prop := s.status.configured = true ∧ s.status.fatal = false

end Sys2Proof.Machine
end

