-- ==== Sys2Proof/Certificates/Slice0/Obligations.lean ====
section
/-! DEFINITION. The statements for the provers, in the order of OBLIGATIONS.json. -/

open Sys2Proof Sys2Proof.Machine

/-! ### The step, the decoder, the encoder -/

/-- When the first pending request decodes to a well-formed instruction, the step is `exec` of it, at the state with
that request taken off and the draw index moved on (R22; the list and the index are the model's, log entries 1, 2).
With nothing pending the core keeps all its state (R208). -/
def Obligations.StepRunsDecodedInstruction : Prop :=
  (∀ s : State, s.pending = [] → step s = .next s) ∧
  ∀ (s : State) (e : Encoded) (rest : List Request) (i : Instr),
    s.pending = requestOf e :: rest → decode e = .instr i → wellFormed i = true →
    step s = exec i (s.take rest) ∧ s.take rest = { s with pending := rest, draws := s.draws + 1 }

/-- A few written-out words decode to the row that the decoder gives them.  The codes of the four commands are R82's.
The bits of the unit patterns are those of R71 to R79, but which row a pattern that several rows share decodes to (16
bits 0x0FFF as ASSEMBLE and 0xFACE as READ_WORD, 32 bits as FIELD32, APPEND or a command), and that it stands at
position 0, is the model's choice (log entry 6, DEDUCED and DESIGN CHOICE). -/
def Obligations.TableWordsDecodeToTheirRows : Prop :=
  decodeTableWord 32 0xFFFFFF00 = some .nop ∧ decodeTableWord 32 0x00000001 = some .configure ∧
  decodeTableWord 32 0x00000102 = some .decode ∧ decodeTableWord 32 0x00000003 = some .poll ∧
  decodeTableWord 16 0xFACE = some (.readWord 0) ∧ decodeTableWord 32 0x0001FFFF = some (.field32 0) ∧
  decodeTableWord 32 0x0000FACE = some (.append 0 2) ∧ decodeTableWord 64 0x0000000700000000 = some (.seekNext 0) ∧
  decodeTableWord 48 0x123456789ABC = some (.unpackGroup 0x1234#16 0x5678#16 0x9ABC#16) ∧
  decodeTableWord 16 0x0FFF = some .assemble

/-- Decoding an encoded well-formed instruction gives it back, for all sixteen operations and every operand (R82; the
frames of unit operations are the model's, log entry 3). -/
def Obligations.DecodeInvertsEncode : Prop :=
  ∀ i : Instr, wellFormed i = true → decode (encode i) = .instr i

/-- R22, R82: bits 7:0 of the value written to CMD select the command, bits 31:8 are ignored. -/
def Obligations.CommandCodeIsLowByte : Prop :=
  (∀ v : Reg32, decodeCmd v = .instr .nop ↔ v.toNat % 256 = 0) ∧
  (∀ v : Reg32, decodeCmd v = .instr .configure ↔ v.toNat % 256 = 1) ∧
  (∀ v : Reg32, decodeCmd v = .instr .decode ↔ v.toNat % 256 = 2) ∧
  (∀ v : Reg32, decodeCmd v = .instr .poll ↔ v.toNat % 256 = 3) ∧
  (∀ v : Reg32, 4 ≤ v.toNat % 256 → decodeCmd v = .reserved (BitVec.ofNat 8 v.toNat))

/-! ### The host's accesses -/

/-- R21: a host read returns the register of that number and changes nothing else; that the value is left in
`readData` is the model's choice (log entry 4), and so are the list and the draw index (log entries 1, 2). -/
def Obligations.RegisterReadReturnsItsRegister : Prop :=
  ∀ (s : State) (reg : RegNum) (rest : List Request), s.pending = .access (.rd reg) :: rest →
    step s = .next { s with pending := rest, draws := s.draws + 1, readData := readReg s reg } ∧
    readReg s 0x00#8 = 0#32 ∧ readReg s 0x01#8 = s.status.toReg ∧ readReg s 0x02#8 = s.outcome.toReg ∧
    readReg s 0x03#8 = ctrlReg s.remapEn ∧ readReg s 0x04#8 = s.nbytes ∧ readReg s 0x05#8 = s.nwords ∧
    readReg s 0x06#8 = s.cursor ∧ readReg s 0x07#8 = s.nominal ∧ readReg s 0x08#8 = s.maxRows ∧
    readReg s 0x09#8 = s.nrows ∧ readReg s 0x0A#8 = s.linkRows.l0 ∧ readReg s 0x0B#8 = s.linkRows.l1 ∧
    readReg s 0x0C#8 = s.linkRows.l2 ∧ readReg s 0x0D#8 = s.linkRows.l3 ∧ readReg s 0x0E#8 = linkStatReg s.linkStat

/-- R23, R24, R25, R31, R84: the flags and codes stand at their bits with the numbers the rules give them, and every
bit above them reads 0. -/
def Obligations.FieldsReadAtTheirBits : Prop :=
  ∀ s : State,
    (∀ n, (readReg s 0x01#8).getLsbD n =
      ((decide (n = 0) && s.status.configured) || (decide (n = 1) && s.status.fatal) ||
        (decide (n = 2) && s.status.done))) ∧
    (readReg s 0x02#8).toNat = (match s.outcome with
      | .none => 0
      | .block => 1
      | .endOfData => 2
      | .corruptStream => 3
      | .shortRead => 4
      | .exceededMaxRows => 5
      | .configurationError => 6) ∧
    (readReg s 0x02#8).toNat = s.outcome.toNat ∧ s.outcome.toNat < 7 ∧
    (∀ n, (readReg s 0x03#8).getLsbD n = (decide (n = 0) && s.remapEn)) ∧
    (∀ i : Fin 4, (readReg s 0x0E#8).toNat / 4 ^ i.val % 4 = (match s.linkStat.get i with
      | .notRun => 0
      | .complete => 1
      | .truncated => 2)) ∧
    (∀ i : Fin 4, (readReg s 0x0E#8).toNat / 4 ^ i.val % 4 = (s.linkStat.get i).toNat) ∧
    (readReg s 0x0E#8).toNat < 256

/-- R21, R25, R27 to R29: a host write of a register number other than CMD changes what that number reads as, the
whole value for NBYTES, CURSOR, NOMINAL and MAX_ROWS, bit 0 for CTRL, nothing for a read-only or reserved number; every
other number reads as before, and no array, no transient state and no pending request changes. -/
def Obligations.RegisterWriteReadsBack : Prop :=
  ∀ (s : State) (reg : RegNum) (v : Reg32) (rest : List Request),
    s.pending = .access (.wr reg v) :: rest → reg ≠ 0x00#8 →
    ∃ t, step s = .next t ∧
      readReg t reg = (if reg.toNat ∈ [4, 6, 7, 8] then v else if reg = 0x03#8 then v &&& 1#32 else readReg s reg) ∧
      (∀ r, r ≠ reg → readReg t r = readReg s r) ∧
      t.bytebuf = s.bytebuf ∧ t.words = s.words ∧ t.perm = s.perm ∧ t.permAct = s.permAct ∧ t.block = s.block ∧
      t.work = s.work ∧ t.pending = rest

/-- R37: register numbers 0x0F to 0xFF read 0, and a write to one is ignored and has no side effect (the request is
taken off the model's list, log entries 1, 2; the 0 read is left in `readData`, log entry 4). -/
def Obligations.ReservedRegistersAreInert : Prop :=
  ∀ (s : State) (reg : RegNum) (v : Reg32) (rest : List Request), 0x0F ≤ reg.toNat →
    (s.pending = .access (.rd reg) :: rest →
      step s = .next { s with pending := rest, draws := s.draws + 1, readData := 0#32 }) ∧
    (s.pending = .access (.wr reg v) :: rest → step s = .next { s with pending := rest, draws := s.draws + 1 })

/-- R32, R34: an element of BYTEBUF or PERM holds what the host wrote last, and a write changes that element alone:
no other element, no register, no other array. -/
def Obligations.ElementWriteReadsBack : Prop :=
  ∀ (s : State) (i : Nat) (v : Byte) (rest : List Request),
    (s.pending = .access (.wrm .bytebuf i v) :: rest → i < Config.bytebufCap →
      ∃ t, step s = .next t ∧ t.byteAt i = v ∧
        (∀ j, j ≠ i → Memory.read t.bytebuf j = Memory.read s.bytebuf j) ∧
        t = { s.take rest with bytebuf := t.bytebuf }) ∧
    (s.pending = .access (.wrm .perm i v) :: rest → i < 128 →
      ∃ t, step s = .next t ∧ t.permAt i = v ∧
        (∀ j, j ≠ i → Memory.read t.perm j = Memory.read s.perm j) ∧
        t = { s.take rest with perm := t.perm })

/-- R33, R35, R36: the host may not write WORDS, PERM_ACT or BLOCK; such a write inside the array is ignored
(U28; the model does not refuse it, log entry 10). -/
def Obligations.ReadOnlyArraysIgnoreWrites : Prop :=
  ∀ (s : State) (space : Space) (i : Nat) (v : Byte) (rest : List Request),
    s.pending = .access (.wrm space i v) :: rest → space = .words ∨ space = .permAct ∨ space = .block →
    inSpace space i = true → step s = .next (s.take rest)

/-- R38, U29: an access to an index outside an array is refused: BYTEBUF at or above BYTEBUF_CAP, WORDS at or above
half of it, PERM and PERM_ACT at or above 128.  That BLOCK has no capacity, so that every read of it answers, is the
model's choice between the two that U34 offers (log entries 5 and 10). -/
def Obligations.OutsideArrayIsRefused : Prop :=
  (∀ (s : State) (space : Space) (i : Nat) (v : Byte) (rest : List Request),
    (space = .bytebuf ∧ Config.bytebufCap ≤ i) ∨ (space = .words ∧ Config.bytebufCap / 2 ≤ i) ∨
      (space = .perm ∧ 128 ≤ i) ∨ (space = .permAct ∧ 128 ≤ i) →
    (s.pending = .access (.rdm space i) :: rest → step s = .refused (.outsideArray space i)) ∧
    (s.pending = .access (.wrm space i v) :: rest → step s = .refused (.outsideArray space i))) ∧
  (∀ (s : State) (i : Nat) (rest : List Request), s.pending = .access (.rdm .block i) :: rest →
    ∃ t, step s = .next t)

/-- R32 to R36, R38: a host read of a written element of BYTEBUF or PERM, or inside the valid part of WORDS, PERM_ACT
or BLOCK, returns the element, zero-extended, and changes nothing else; BLOCK's element 128*r + c is cell (r, c).  That
the value is left in `readData` is the model's choice (log entry 4). -/
def Obligations.ElementReadReturnsElement : Prop :=
  ∀ (s : State) (rest : List Request),
    let answers := fun v : Reg32 => step s = .next { s with pending := rest, draws := s.draws + 1, readData := v }
    (∀ (j : Nat) (v : Byte), Memory.read s.bytebuf j = some v → j < Config.bytebufCap →
      s.pending = .access (.rdm .bytebuf j) :: rest → answers (v.setWidth 32)) ∧
    (∀ (e : Nat) (v : Byte), Memory.read s.perm e = some v → e < 128 →
      s.pending = .access (.rdm .perm e) :: rest → answers (v.setWidth 32)) ∧
    (∀ (k : Nat) (h : k < s.words.length), k < Config.bytebufCap / 2 →
      s.pending = .access (.rdm .words k) :: rest → answers (s.words[k].setWidth 32)) ∧
    (∀ (e : Nat) (h : e < s.permAct.length), e < 128 →
      s.pending = .access (.rdm .permAct e) :: rest → answers (s.permAct[e].setWidth 32)) ∧
    (∀ (r c : Nat) (hr : r < s.block.length) (hc : c < (s.block[r]).length), c < 128 →
      s.pending = .access (.rdm .block (128 * r + c)) :: rest → answers ((s.block[r])[c].setWidth 32))

/-! ### Reset and the invariant -/

/-- R41, R220: right after reset every register reads 0, no array holds a value, no transient state exists. -/
def Obligations.RegistersReadZeroAfterReset : Prop :=
  (∀ reg : RegNum, readReg State.reset reg = 0#32) ∧
  State.reset.bytebuf = [] ∧ State.reset.words = [] ∧ State.reset.perm = [] ∧ State.reset.permAct = [] ∧
  State.reset.block = [] ∧ State.reset.work.buf = [] ∧ State.reset.work.blk = [] ∧
  (∀ i : Fin 4, State.reset.work.rows.get i = [])

/-- R220: the external reset puts the core in the state of `State.reset`, whatever it was in; the model's list of
requests and draw index stay (log entry 13). -/
def Obligations.ExternalResetRestoresReset : Prop :=
  ∀ (s : State) (rest : List Request), s.pending = .reset :: rest →
    step s = .next { State.reset with pending := rest, draws := s.draws + 1 }

/-- The invariant holds right after reset. -/
def Obligations.InvariantHoldsAtReset : Prop := Inv State.reset

/-- Every step keeps the invariant. -/
def Obligations.StepKeepsInvariant : Prop :=
  ∀ s t : State, Inv s → step s = .next t → Inv t

/-! ### WordReader -/

/-- R100, R51: READ_WORD answers with the Word whose high byte is B[2i] and low byte B[2i+1], and changes nothing
else.  A stand-alone call, which leaves it in the transient state, is the model's choice (log entry 3), and so is what
it answers at an index not below floor(NBYTES / 2), outside R100's domain: the stored bytes (log entry 7). -/
def Obligations.ReadWordCompletes : Prop :=
  ∀ (i : Nat) (s : State), ∃ t, exec (.readWord i) s = .next t ∧
    t.work.word.toNat = 256 * (s.byteAt (2 * i)).toNat + (s.byteAt (2 * i + 1)).toNat ∧
    t = { s with work := { s.work with word := t.work.word } }

/-- R101, R72: FIELD32 answers with the field whose high half is W[k] and low half W[k+1], and changes nothing else.
A stand-alone call, which leaves it in the transient state, is the model's choice (log entry 3), and so is what it
answers at a position outside R101's domain (log entry 7). -/
def Obligations.Field32Completes : Prop :=
  ∀ (k : Nat) (s : State), ∃ t, exec (.field32 k) s = .next t ∧
    t.work.field = field32 s.wordAt k ∧
    t.work.field.toNat = 65536 * (s.wordAt k).toNat + (s.wordAt (k + 1)).toNat ∧
    t = { s with work := { s.work with field := t.work.field } }

/-! ### PackageFramer -/

/-- R110: SEEK_NEXT answers EndOfData where no header can be read, else CorruptStream where the reserved field is not
zero, else PackageEnd(k) for the least k that holds the successor signature wholly inside the data, else EndOfData; the
answer is `seekNext` of the stream, and nothing else changes.  A stand-alone call, which leaves the answer in the
transient state, is the model's choice (log entry 3). -/
def Obligations.SeekNextCompletes : Prop :=
  ∀ (pos : Nat) (s : State), ∃ r,
    exec (.seekNext pos) s = .next { s with work := { s.work with seek := some r } } ∧
    r = seekNext s.wordAt s.nwords.toNat pos ∧
    let readable := pos + 4 ≤ s.nwords.toNat
    let zero := field32 s.wordAt (pos + 2) = 0#32
    let boundary := fun k => pos + 4 ≤ k ∧ k + 4 ≤ s.nwords.toNat ∧
      field32 s.wordAt k = field32 s.wordAt pos + 1#32 ∧ field32 s.wordAt (k + 2) = 0#32
    (r = .endOfData ↔ ¬ readable ∨ (zero ∧ ∀ k, ¬ boundary k)) ∧
    (r = .corruptStream ↔ readable ∧ ¬ zero) ∧
    (∀ k, r = .packageEnd k ↔ readable ∧ zero ∧ boundary k ∧ ∀ j, boundary j → k ≤ j)

/-- R112: what a package boundary is, for a readable header with a zero reserved field. -/
def Obligations.PackageEndIsLeastSignature : Prop :=
  ∀ (W : Nat → Word) (n pos k : Nat), pos + 4 ≤ n → field32 W (pos + 2) = 0#32 →
    let boundary := fun j => pos + 4 ≤ j ∧ j + 4 ≤ n ∧
      65536 * (W j).toNat + (W (j + 1)).toNat = ((field32 W pos).toNat + 1) % 2 ^ 32 ∧
      W (j + 2) = 0#16 ∧ W (j + 3) = 0#16
    seekNext W n pos = .packageEnd k ↔ boundary k ∧ ∀ j, boundary j → k ≤ j

/-- R111: the counter of the header that ends a package is the successor, in 32 bits with wrap. -/
def Obligations.BoundaryCounterIsSuccessor : Prop :=
  (∀ (W : Nat → Word) (n pos k : Nat), seekNext W n pos = .packageEnd k →
    (field32 W k).toNat = ((field32 W pos).toNat + 1) % 2 ^ 32) ∧
  successor 0xFFFFFFFF#32 = 0#32

/-- R110 (h), R114: a SEEK_NEXT started at a position that a SEEK_NEXT returned never gives CorruptStream. -/
def Obligations.BoundaryIsNeverCorrupt : Prop :=
  ∀ (W : Nat → Word) (n pos k : Nat), seekNext W n pos = .packageEnd k → seekNext W n k ≠ .corruptStream

/-- R113, R127: a package of a synthetic stream whose payload holds no signature is framed at its end: the stream is
the package, then the package with the next counter, then anything. -/
def Obligations.SyntheticPackageIsFramed : Prop :=
  ∀ (seq : Reg32) (payload after rest : List Word),
    let ws := packPackage seq 0#32 payload ++ packPackage (seq + 1#32) 0#32 after ++ rest
    let W := fun i => ws.getD i 0#16
    (∀ k, 4 ≤ k → k < 4 + payload.length → isSignature W (seq + 1#32) k = false) →
    seekNext W ws.length 0 = .packageEnd (4 + payload.length)

/-! ### LinkAssembler -/

/-- R120, R121: APPEND copies the payload, less its first Word exactly where it has two Words at least, the first is
0x0000 and the second 0xFACE or 0xFEED; the buffer is `append` of the stream, and nothing else changes.  A stand-alone
call, on a link buffer kept in the transient state, is the model's choice (log entry 3), and so is what it copies for
operands outside R120's domain (log entry 7). -/
def Obligations.AppendCompletes : Prop :=
  ∀ (start stop : Nat) (s : State), ∃ copied : List Word,
    exec (.append start stop) s = .next { s with work := { s.work with buf := s.work.buf ++ copied } } ∧
    s.work.buf ++ copied = append s.wordAt start stop s.work.buf ∧
    let skip := if start + 2 ≤ stop ∧ s.wordAt start = 0x0000#16 ∧
      (s.wordAt (start + 1) = 0xFACE#16 ∨ s.wordAt (start + 1) = 0xFEED#16) then 1 else 0
    copied.length = stop - start - skip ∧
    ∀ j, j < copied.length → copied[j]? = some (s.wordAt (start + skip + j))

/-- R122: MAKE_LINK is the loop the rule writes, without any bound on its passes: a function of the buffer and the
position that satisfies the rule's equation everywhere gives MAKE_LINK's result from the empty buffer. -/
def Obligations.MakeLinkFollowsItsLoop : Prop :=
  ∀ (W : Nat → Word) (n nominal maxRows : Nat), ∃ loop : List Word → Nat → LinkResult,
    (∀ pos, makeLink W n nominal maxRows pos = loop [] pos) ∧
    ∀ buf pos, loop buf pos =
      match seekNext W n pos with
      | .corruptStream => ⟨buf, pos, pos, .corrupt⟩
      | .endOfData =>
        if pos + 4 ≤ n then
          if (append W (pos + 4) n buf).length / 25 > maxRows then ⟨append W (pos + 4) n buf, pos, pos, .exceeded⟩
          else ⟨append W (pos + 4) n buf, n, pos, .truncated⟩
        else ⟨buf, pos, pos, .truncated⟩
      | .packageEnd k =>
        if (append W (pos + 4) k buf).length / 25 > maxRows then ⟨append W (pos + 4) k buf, pos, pos, .exceeded⟩
        else if k - (pos + 4) < nominal then ⟨append W (pos + 4) k buf, k, k, .complete⟩
        else loop (append W (pos + 4) k buf) k

/-- R122: a stand-alone MAKE_LINK reads NOMINAL, MAX_ROWS, NWORDS and WORDS, leaves the link buffer and its result in
the transient state (log entry 3) and changes nothing else. -/
def Obligations.MakeLinkCompletes : Prop :=
  ∀ (pos : Nat) (s : State), ∃ r,
    exec (.makeLink pos) s = .next { s with work := { s.work with buf := r.buf, link := some r } } ∧
    r = makeLink s.wordAt s.nwords.toNat s.nominal.toNat s.maxRows.toNat pos

/-- R122 (b), (c), R126: where a link ends and what its row count is, by outcome. -/
def Obligations.LinkEndsWhereRuled : Prop :=
  ∀ (W : Nat → Word) (n nominal maxRows pos : Nat), pos + 4 ≤ n →
    let r := makeLink W n nominal maxRows pos
    pos ≤ r.fail ∧
    (r.out = .complete → pos + 4 ≤ r.next ∧ r.next + 4 ≤ n ∧ field32 W (r.next + 2) = 0#32 ∧
      rowCount r.buf ≤ maxRows) ∧
    (r.out = .truncated → r.next = n ∧ r.fail + 4 ≤ n ∧ seekNext W n r.fail = .endOfData ∧
      rowCount r.buf ≤ maxRows) ∧
    (r.out = .exceeded → r.fail + 4 ≤ n ∧ maxRows < rowCount r.buf) ∧
    (r.out = .corrupt → r.fail = pos ∧ r.buf = [] ∧ field32 W (pos + 2) ≠ 0#32)

/-- R28, R122 (e), R234: with NOMINAL = 0 no link is `Complete`. -/
def Obligations.NominalZeroNeverCompletes : Prop :=
  ∀ (W : Nat → Word) (n maxRows pos : Nat), (makeLink W n 0 maxRows pos).out ≠ .complete

/-- R125: ROW_COUNT is the number of complete 25-Word rows; it changes nothing else (log entry 3). -/
def Obligations.RowCountCompletes : Prop :=
  ∀ s : State, ∃ rows, exec .rowCount s = .next { s with work := { s.work with count := rows } } ∧
    25 * rows ≤ s.work.buf.length ∧ s.work.buf.length < 25 * rows + 25

/-! ### SampleUnpacker -/

/-- R135: UNPACK_GROUP answers `(a, b, c, d)` with `w2 : w1 : w0 = a : b : c : d` as 48-bit numbers, for every triple
of Words; it changes nothing else (log entry 3). -/
def Obligations.UnpackGroupCompletes : Prop :=
  ∀ (w0 w1 w2 : Word) (s : State), ∃ g : Group,
    exec (.unpackGroup w0 w1 w2) s = .next { s with work := { s.work with group := g } } ∧
    g = groupLaw w0 w1 w2 ∧
    g.a.toNat * 2 ^ 36 + g.b.toNat * 2 ^ 24 + g.c.toNat * 2 ^ 12 + g.d.toNat =
      w2.toNat * 2 ^ 32 + w1.toNat * 2 ^ 16 + w0.toNat

/-- R136: the law is a bijection between triples of Words and quadruples of 12-bit values, with the inverse the rule
writes. -/
def Obligations.GroupLawIsBijection : Prop :=
  (∀ w0 w1 w2 : Word, packWord0 (groupLaw w0 w1 w2) = w0 ∧ packWord1 (groupLaw w0 w1 w2) = w1 ∧
    packWord2 (groupLaw w0 w1 w2) = w2) ∧
  (∀ g : Group, groupLaw (packWord0 g) (packWord1 g) (packWord2 g) = g) ∧
  (∀ w0 w1 w2 : Word, let V := w2 ++ w1 ++ w0
    (groupLaw w0 w1 w2).d = V.extractLsb' 0 12 ∧ (groupLaw w0 w1 w2).c = V.extractLsb' 12 12 ∧
    (groupLaw w0 w1 w2).b = V.extractLsb' 24 12 ∧ (groupLaw w0 w1 w2).a = V.extractLsb' 36 12)

/-- R137, R138: column c of a row comes from group `(c div 4) xor 1`, lane `c mod 4`; the row has 32 columns and the
filler has no effect; nothing else changes (log entry 3). -/
def Obligations.UnpackRowCompletes : Prop :=
  ∀ (row : List Word) (s : State), row.length = 25 → ∃ out : SampleRow,
    exec (.unpackRow row) s = .next { s with work := { s.work with row := out } } ∧
    out = unpackRow row ∧ out.length = 32 ∧
    (∀ g, g < 8 →
      let v := groupLaw (row.getD (1 + 3 * g) 0#16) (row.getD (2 + 3 * g) 0#16) (row.getD (3 + 3 * g) 0#16)
      let base := if g % 2 = 0 then 4 * (g + 1) else 4 * (g - 1)
      out[base]? = some v.a ∧ out[base + 1]? = some v.b ∧ out[base + 2]? = some v.c ∧ out[base + 3]? = some v.d) ∧
    (∀ filler : Word, unpackRow (row.set 0 filler) = out)

/-- R77, R89, R136: the 25 Words built for 32 values decode to them, whatever the filler, and the Words built from a
decoded row are the row: encoding and decoding a row agree both ways. -/
def Obligations.RowCodecAgrees : Prop :=
  (∀ (filler : Word) (values : SampleRow), values.length = 32 →
    (packRow filler values).length = 25 ∧ unpackRow (packRow filler values) = values) ∧
  (∀ (filler : Word) (rest : List Word), rest.length = 24 →
    packRow filler (unpackRow (filler :: rest)) = filler :: rest)

/-- R139, R78: UNPACK_LINK gives ROW_COUNT(buf) rows, `unpackLink` of the buffer, row r from buffer Words 25r to
25r + 24; it stores them as rows[i] and changes nothing else (that a stand-alone call names i is the model's choice, log
entry 3). -/
def Obligations.UnpackLinkCompletes : Prop :=
  ∀ (i : Fin 4) (s : State), ∃ rows : List SampleRow, ∃ t,
    exec (.unpackLink i) s = .next t ∧ t = { s with work := { s.work with rows := t.work.rows } } ∧
    t.work.rows.get i = rows ∧ (∀ j, j ≠ i → t.work.rows.get j = s.work.rows.get j) ∧
    rows = unpackLink s.work.buf ∧ rows.length = s.work.buf.length / 25 ∧
    ∀ r, r < rows.length → ∃ words : List Word, words.length = 25 ∧
      (∀ j, j < 25 → words[j]? = s.work.buf[25 * r + j]?) ∧ rows[r]? = some (unpackRow words)

/-! ### TriggerAssembler -/

/-- R150, R151: the block, `assemble` of the links, has as many rows as the longest link; cell (r, 32*i + c) is link
i's value zero-extended, or FILL = 0 where link i has no row r; nothing else changes (log entry 3). -/
def Obligations.AssembleCompletes : Prop :=
  ∀ s : State, (∀ i : Fin 4, ∀ row ∈ s.work.rows.get i, row.length = 32) → ∃ blk : List BlockRow,
    exec .assemble s = .next { s with work := { s.work with blk := blk } } ∧
    blk = assemble s.work.rows ∧ (∀ i : Fin 4, (s.work.rows.get i).length ≤ blk.length) ∧
    (∃ i : Fin 4, blk.length = (s.work.rows.get i).length) ∧
    ∀ r, r < blk.length → ∀ (i : Fin 4) (c : Nat), c < 32 →
      ((blk[r]?).getD [])[32 * i.val + c]? =
        some (match (s.work.rows.get i)[r]? with
          | some row => (row.getD c 0#12).setWidth 16
          | none => 0#16)

/-! ### ChannelRemapper -/

/-- R160: VERIFY_TABLE answers true exactly when the 128 entries of PERM hold each value 1 to 128 exactly once; it
changes nothing else (log entry 3). -/
def Obligations.VerifyTableCompletes : Prop :=
  ∀ s : State, ∃ ok : Bool,
    exec .verifyTable s = .next { s with work := { s.work with verified := some ok } } ∧
    ok = verifyTable s.permTable ∧
    (ok = true ↔ ∀ v : Nat, 1 ≤ v → v ≤ 128 →
      ∃ e, e < 128 ∧ (s.permAt e).toNat = v ∧ ∀ e', e' < 128 → (s.permAt e').toNat = v → e' = e)

/-- R161: with a verified table REMAP puts the value of column e into column PERM_ACT[e] - 1, for every row and every
e; rows and their order stay; the block is `remapBlock` of the block before, and nothing else changes (log entry 3). -/
def Obligations.RemapCompletes : Prop :=
  ∀ s : State, verifiedTable s.permAct → (∀ row ∈ s.work.blk, row.length = 128) → ∃ out : List BlockRow,
    exec .remap s = .next { s with work := { s.work with blk := out } } ∧
    out = s.remapBlock s.work.blk ∧ out.length = s.work.blk.length ∧
    ∀ r, r < out.length → ((out[r]?).getD []).length = 128 ∧
      ∀ e, e < 128 → ((out[r]?).getD [])[(s.permActAt e).toNat - 1]? = ((s.work.blk[r]?).getD [])[e]?

/-! ### NOP and CONFIGURE -/

/-- R170, R83: NOP changes nothing, in every state, and a write of a reserved code behaves the same (the request is
taken off the model's list, log entry 1). -/
def Obligations.NopChangesNothing : Prop :=
  (∀ s : State, exec .nop s = .next s) ∧
  (∀ (s : State) (v : Reg32) (rest : List Request), s.pending = .access (.wr regCmd v) :: rest →
    v.toNat % 256 = 0 ∨ 4 ≤ v.toNat % 256 → step s = .next (s.take rest))

/-- R171, R102, R61: with a source that is there and a table that passes, CONFIGURE takes the snapshots. -/
def Obligations.ConfigureInstallsTheSource : Prop :=
  ∀ s : State, s.nbytes ≠ 0#32 → s.nbytes.toNat ≤ Config.bytebufCap → verifyTable s.permTable = true →
    ∃ t, exec .configure s = .next t ∧
      t.status = ⟨true, false, false⟩ ∧ t.outcome = .none ∧ t.nwords.toNat = s.nbytes.toNat / 2 ∧
      t.words.length = s.nbytes.toNat / 2 ∧
      (∀ i, i < s.nbytes.toNat / 2 → ∃ w, t.words[i]? = some w ∧
        w.toNat = 256 * (s.byteAt (2 * i)).toNat + (s.byteAt (2 * i + 1)).toNat) ∧
      t.permAct.length = 128 ∧ (∀ e, e < 128 → t.permAct[e]? = some (s.permAt e)) ∧
      t.cursor = 0#32 ∧ t.nrows = 0#32 ∧ t.linkRows = PerLink.const 0#32 ∧ t.linkStat = PerLink.const .notRun

/-- R195: with an empty or oversized source or a malformed table, CONFIGURE reports CONFIGURATION_ERROR and leaves the
core unconfigured, NBYTES and PERM as they were; no other operation reports it, and none but CONFIGURE makes the core
configured. -/
def Obligations.ConfigureReportsError : Prop :=
  (∀ (i : Instr) (s t : State), i ≠ .configure → exec i s = .next t →
    (t.outcome = .configurationError → s.outcome = .configurationError) ∧
    t.status.configured = s.status.configured) ∧
  ∀ s : State, s.nbytes = 0#32 ∨ s.nbytes.toNat > Config.bytebufCap ∨ verifyTable s.permTable = false →
    ∃ t, exec .configure s = .next t ∧ t.outcome = .configurationError ∧ t.status = ⟨false, false, false⟩ ∧
      t.nwords = 0#32 ∧ t.cursor = 0#32 ∧ t.nrows = 0#32 ∧ t.linkRows = PerLink.const 0#32 ∧
      t.linkStat = PerLink.const .notRun ∧ t.nbytes = s.nbytes ∧ t.perm = s.perm

/-- R221: whatever CONFIGURE's outcome, CURSOR, NROWS, LINK_ROWS, LINKSTAT and the flags FATAL and DONE are as after
reset, and CTRL, NOMINAL, MAX_ROWS, NBYTES, BYTEBUF and PERM are kept; STATUS and NWORDS are as after reset too unless
it succeeds.  No transient state is left (R41; log entry 12). -/
def Obligations.ConfigureIsSoftReset : Prop :=
  ∀ s : State, ∃ t, exec .configure s = .next t ∧
    t.cursor = State.reset.cursor ∧ t.nrows = State.reset.nrows ∧ t.linkRows = State.reset.linkRows ∧
    t.linkStat = State.reset.linkStat ∧ t.work = Work.empty ∧
    (t.outcome = .none ∨ (t.status = State.reset.status ∧ t.nwords = State.reset.nwords)) ∧
    t.status.fatal = false ∧ t.status.done = false ∧
    t.remapEn = s.remapEn ∧ t.nominal = s.nominal ∧ t.maxRows = s.maxRows ∧ t.nbytes = s.nbytes ∧
    t.bytebuf = s.bytebuf ∧ t.perm = s.perm

/-! ### DECODE and POLL -/

/-- R172 (a), (b), R175, R198: an unconfigured core, POLL after DONE, and a fatal core only set OUTCOME.  That NROWS and
BLOCK stay as they are beside an outcome that is not BLOCK follows the pseudocode of R172 and R175 against a sentence of
R30, and is the model's choice (log entry 8). -/
def Obligations.NothingIsDecodedWhenNotReady : Prop :=
  ∀ s : State,
    (s.status.configured = false → exec .decode s = .next { s with outcome := .none } ∧
      exec .poll s = .next { s with outcome := .none }) ∧
    (s.status.configured = true → s.status.done = true → exec .poll s = .next { s with outcome := .none }) ∧
    (s.status.configured = true → s.status.fatal = true →
      exec .decode s = .next { s with outcome := .exceededMaxRows } ∧
      (s.status.done = false → exec .poll s = .next { s with outcome := .exceededMaxRows }))

/-- R191: fewer than 4 Words at CURSOR give END_OF_DATA, CURSOR unchanged, no block, no diagnostics; through POLL also
DONE; and nothing else gives END_OF_DATA. -/
def Obligations.EndOfDataIsReported : Prop :=
  (∀ s t : State, exec .decode s = .next t ∨ exec .poll s = .next t → t.outcome = .endOfData →
    readyToDecode s ∧ s.cursor.toNat + 4 > s.nwords.toNat) ∧
  ∀ s : State, readyToDecode s → s.cursor.toNat + 4 > s.nwords.toNat →
    ∃ t, exec .decode s = .next t ∧ t.outcome = .endOfData ∧ t.cursor = s.cursor ∧ t.nrows = 0#32 ∧
      t.linkRows = PerLink.const 0#32 ∧ t.linkStat = PerLink.const .notRun ∧ t.status = s.status ∧
      (s.status.done = false → exec .poll s = .next { t with status := { s.status with done := true } })

/-- R192, R174: a nonzero reserved field in the header at CURSOR gives CORRUPT_STREAM at that position, with no block
and no diagnostics, and through POLL the same. -/
def Obligations.CorruptStreamIsReported : Prop :=
  ∀ s : State, readyToDecode s → s.cursor.toNat + 4 ≤ s.nwords.toNat →
    field32 s.wordAt (s.cursor.toNat + 2) ≠ 0#32 →
    ∃ t, exec .decode s = .next t ∧ t.outcome = .corruptStream ∧ t.cursor = s.cursor ∧ t.nrows = 0#32 ∧
      t.linkRows = PerLink.const 0#32 ∧ t.linkStat = PerLink.const .notRun ∧ t.status = s.status ∧
      (s.status.done = false → exec .poll s = .next t)

/-- R114, R173: DECODE reports CORRUPT_STREAM only for the header at CURSOR, never for a later one. -/
def Obligations.CorruptStreamOnlyAtCursor : Prop :=
  ∀ s t : State, readyToDecode s → exec .decode s = .next t → t.outcome = .corruptStream →
    s.cursor.toNat + 4 ≤ s.nwords.toNat ∧ field32 s.wordAt (s.cursor.toNat + 2) ≠ 0#32

/-- R193: a chain of at most three links whose last is `Truncated` gives SHORT_READ at the start of its tail package,
with the diagnostics of the links up to it. -/
def Obligations.ShortReadIsReported : Prop :=
  ∀ (s : State) (before : List LinkResult) (last : LinkResult), readyToDecode s →
    s.cursor.toNat + 4 ≤ s.nwords.toNat → LinkChain s s.cursor.toNat (before ++ [last]) →
    last.out = .truncated → before.length < 3 →
    ∃ t, exec .decode s = .next t ∧ t.outcome = .shortRead ∧ t.cursor.toNat = last.fail ∧ t.nrows = 0#32 ∧
      t.status = s.status ∧
      (∀ i : Fin 4, (t.linkStat.get i).toNat =
        if i.val < before.length then 1 else if i.val = before.length then 2 else 0) ∧
      (∀ i : Fin 4, (t.linkRows.get i).toNat = (((before ++ [last])[i.val]?).map fun r => r.buf.length / 25).getD 0)

/-- R194: a chain of at most four links whose last is `Exceeded` gives EXCEEDED_MAX_ROWS at the package that took it
over the bound, sets FATAL, and notes only the links before it. -/
def Obligations.ExceededMaxRowsIsReported : Prop :=
  ∀ (s : State) (before : List LinkResult) (last : LinkResult), readyToDecode s →
    s.cursor.toNat + 4 ≤ s.nwords.toNat → LinkChain s s.cursor.toNat (before ++ [last]) →
    last.out = .exceeded → before.length < 4 →
    ∃ t, exec .decode s = .next t ∧ t.outcome = .exceededMaxRows ∧ t.cursor.toNat = last.fail ∧ t.nrows = 0#32 ∧
      t.status = { s.status with fatal := true } ∧
      (∀ i : Fin 4, (t.linkStat.get i).toNat = if i.val < before.length then 1 else 0) ∧
      (∀ i : Fin 4, (t.linkRows.get i).toNat = ((before[i.val]?).map fun r => r.buf.length / 25).getD 0)

/-- R172, R174, R25: four links, the last `Complete` or `Truncated`, give BLOCK: the assembled block, remapped where
REMAP_EN is set, its row count, CURSOR after the fourth link, the diagnostics; the stream, the table and STATUS stay,
and no transient state is left (R40, R41; log entry 12).
POLL with DONE = 0 gives the same state. -/
def Obligations.BlockIsDelivered : Prop :=
  ∀ (s : State) (r0 r1 r2 r3 : LinkResult), readyToDecode s → s.cursor.toNat + 4 ≤ s.nwords.toNat →
    LinkChain s s.cursor.toNat [r0, r1, r2, r3] → r3.out = .complete ∨ r3.out = .truncated →
    let blk := assemble ⟨unpackLink r0.buf, unpackLink r1.buf, unpackLink r2.buf, unpackLink r3.buf⟩
    ∃ t, exec .decode s = .next t ∧ t.outcome = .block ∧ t.cursor.toNat = r3.next ∧
      t.nrows.toNat = max (max (r0.buf.length / 25) (r1.buf.length / 25))
        (max (r2.buf.length / 25) (r3.buf.length / 25)) ∧
      t.block = (if s.remapEn = true then s.remapBlock blk else blk) ∧ t.block.length = t.nrows.toNat ∧
      t.linkStat = ⟨.complete, .complete, .complete, if r3.out = .complete then .complete else .truncated⟩ ∧
      (∀ i : Fin 4, (t.linkRows.get i).toNat = (([r0, r1, r2, r3][i.val]?).map fun r => r.buf.length / 25).getD 0) ∧
      t.status = s.status ∧ t.nwords = s.nwords ∧ t.words = s.words ∧ t.permAct = s.permAct ∧
      t.work = Work.empty ∧ (s.status.done = false → exec .poll s = .next t)

/-- R173 (cases 2 to 5), R172 (d), R114: from a readable header at CURSOR on, the links of a trigger end in one of four
ways, and DECODE reports the outcome of that way.  The reserved field at CURSOR is not zero: the first link is `Corrupt`
there, CORRUPT_STREAM.  Else it is zero, each link but the last is `Complete` and ends at a readable header, and the
last takes its buffer over MAX_ROWS, EXCEEDED_MAX_ROWS; or is one of the first three and `Truncated`, SHORT_READ; or is
the fourth and `Complete` or `Truncated`, BLOCK.  A `Truncated` link has consumed the data to its end. -/
def Obligations.EveryTriggerEndsInAnOutcome : Prop :=
  ∀ s : State, readyToDecode s → s.cursor.toNat + 4 ≤ s.nwords.toNat →
    ∃ (before : List LinkResult) (last : LinkResult) (t : State), exec .decode s = .next t ∧
      LinkChain s s.cursor.toNat (before ++ [last]) ∧
      (∀ r ∈ before, r.out = .complete ∧ r.next + 4 ≤ s.nwords.toNat) ∧
      (last.out = .truncated → last.next = s.nwords.toNat ∧ last.fail + 4 ≤ s.nwords.toNat) ∧
      let reserved := field32 s.wordAt (s.cursor.toNat + 2)
      ((reserved ≠ 0#32 ∧ before = [] ∧ last.out = .corrupt ∧ last.fail = s.cursor.toNat ∧
          t.outcome = .corruptStream) ∨
        (reserved = 0#32 ∧ before.length < 4 ∧ last.out = .exceeded ∧ s.maxRows.toNat < last.buf.length / 25 ∧
          t.outcome = .exceededMaxRows) ∨
        (reserved = 0#32 ∧ before.length < 3 ∧ last.out = .truncated ∧ t.outcome = .shortRead) ∨
        (reserved = 0#32 ∧ before.length = 3 ∧ (last.out = .complete ∨ last.out = .truncated) ∧ t.outcome = .block))

/-- R175: on a core that is ready and not done POLL is DECODE, and sets DONE where the outcome is END_OF_DATA. -/
def Obligations.PollDeliversWhatDecodeDelivers : Prop :=
  ∀ s : State, readyToDecode s → s.status.done = false →
    ∃ t, exec .decode s = .next t ∧
      exec .poll s = .next { t with status :=
        { t.status with done := if t.outcome = .endOfData then true else t.status.done } }

/-- R175, R23: END_OF_DATA is delivered by one POLL; a later POLL on a core with the same STATUS reports NONE and
changes nothing else, whatever the host has written to CURSOR, NOMINAL, MAX_ROWS, CTRL or NBYTES in between.  That it
also keeps NROWS and BLOCK of a block a DECODE delivered in between is the model's choice (log entry 8).  A core whose
FATAL was set in between is `NothingIsDecodedWhenNotReady`'s case. -/
def Obligations.EndMarkerIsEmittedOnce : Prop :=
  ∀ s t u : State, exec .poll s = .next t → t.outcome = .endOfData → u.status = t.status →
    exec .poll u = .next { u with outcome := .none }

/-- R199, R30, R40: a decode that runs and does not report BLOCK leaves no block, NROWS = 0 and no element of BLOCK
valid, and no transient state (R41; log entry 12). -/
def Obligations.ErrorsDeliverNoBlock : Prop :=
  ∀ s t : State, readyToDecode s → exec .decode s = .next t ∨ (s.status.done = false ∧ exec .poll s = .next t) →
    t.outcome ≠ .block → t.nrows = 0#32 ∧ t.block = [] ∧ t.work = Work.empty

/-- R27 (c), (e), R200: DECODE never moves CURSOR back, and leaves it where it was or inside the stream. -/
def Obligations.CursorMovesForwardInsideStream : Prop :=
  ∀ s t : State, exec .decode s = .next t →
    s.cursor.toNat ≤ t.cursor.toNat ∧ (t.cursor = s.cursor ∨ t.cursor.toNat ≤ s.nwords.toNat)

/-- R232, R174: after CORRUPT_STREAM, END_OF_DATA or EXCEEDED_MAX_ROWS a repeated DECODE repeats the outcome and
changes nothing. -/
def Obligations.ErrorsRepeat : Prop :=
  ∀ s t : State, exec .decode s = .next t → readyToDecode s →
    t.outcome = .corruptStream ∨ t.outcome = .endOfData ∨ t.outcome = .exceededMaxRows →
    exec .decode t = .next t

/-- R174, R201: after SHORT_READ a repeated DECODE reports SHORT_READ at the same CURSOR, with the tail package as a
truncated link 0. -/
def Obligations.ShortReadRepeats : Prop :=
  ∀ s t : State, readyToDecode s → exec .decode s = .next t → t.outcome = .shortRead →
    ∃ u, exec .decode t = .next u ∧ u.outcome = .shortRead ∧ u.cursor = t.cursor ∧
      u.linkStat = ⟨.truncated, .notRun, .notRun, .notRun⟩

/-- R176: two DECODE commands started from equal operands end with equal results, whatever else the two states hold
(for a core that is ready: on one that is not, DECODE leaves what it does not report alone, log entry 9). -/
def Obligations.DecodeIsDeterministic : Prop :=
  ∀ s t s' t' : State, Inv s → readyToDecode s → SameDecodeInputs s t →
    exec .decode s = .next s' → exec .decode t = .next t' → SameDecodeResult s' t'

/-! ### Rules of the whole machine -/

/-- R199, R221, R38: no command changes what only the host writes: BYTEBUF, PERM, NBYTES, CTRL, NOMINAL, MAX_ROWS; and
only CONFIGURE changes WORDS, NWORDS and PERM_ACT. -/
def Obligations.CommandsKeepHostInputs : Prop :=
  ∀ (i : Instr) (s t : State), exec i s = .next t →
    (t.bytebuf = s.bytebuf ∧ t.perm = s.perm ∧ t.nbytes = s.nbytes ∧ t.remapEn = s.remapEn ∧
      t.nominal = s.nominal ∧ t.maxRows = s.maxRows ∧ t.pending = s.pending ∧ t.readData = s.readData ∧
      t.draws = s.draws) ∧
    (i ≠ .configure → t.words = s.words ∧ t.nwords = s.nwords ∧ t.permAct = s.permAct ∧
      t.status.configured = s.status.configured)

/-- R33, R61, R235: the stream and the active table are snapshots: only a step that serves CONFIGURE or the reset
changes them. -/
def Obligations.StreamChangesOnlyByConfigureOrReset : Prop :=
  ∀ s t : State, step s = .next t →
    (t.words = s.words ∧ t.nwords = s.nwords ∧ t.permAct = s.permAct) ∨
    (∃ v rest, s.pending = .access (.wr regCmd v) :: rest ∧ v.toNat % 256 = 1) ∨
    (∃ rest, s.pending = .reset :: rest)

/-- R23, R194: FATAL, and DONE likewise, once set stay set until a step serves CONFIGURE or the reset. -/
def Obligations.FlagsStayUntilConfigureOrReset : Prop :=
  ∀ s t : State, step s = .next t →
    ((s.status.fatal = true → t.status.fatal = true) ∧ (s.status.done = true → t.status.done = true)) ∨
    (∃ v rest, s.pending = .access (.wr regCmd v) :: rest ∧ v.toNat % 256 = 1) ∨
    (∃ rest, s.pending = .reset :: rest)

/-- R38: "Nothing the host does between commands can raise an outcome": a step that changes OUTCOME serves CONFIGURE,
DECODE, POLL or the reset. -/
def Obligations.OnlyCommandsChangeOutcome : Prop :=
  ∀ s t : State, step s = .next t → t.outcome ≠ s.outcome →
    (∃ v rest, s.pending = .access (.wr regCmd v) :: rest ∧
      (v.toNat % 256 = 1 ∨ v.toNat % 256 = 2 ∨ v.toNat % 256 = 3)) ∨
    (∃ rest, s.pending = .reset :: rest)
end

