-- ==== Sys2Proof/Laws/Memory.lean ====
section
/-! SUPPORT. The laws of the cell lists BYTEBUF and PERM: read after write, and the canonical form. -/

namespace Sys2Proof.Machine

@[simp] theorem Memory.read_nil (a : Nat) : Memory.read [] a = none := rfl

/-- Reading the element just written gives the value written. -/
@[simp] theorem Memory.read_write_same (m : List Host.Cell) (a : Nat) (x : Byte) :
    Memory.read (Memory.write m a x) a = some x := by
  induction m with
  | nil => simp [Memory.write, Memory.read]
  | cons c m ih =>
    obtain ⟨b, v⟩ := c
    unfold Memory.write
    split
    · simp [Memory.read]
    · split
      · simp [Memory.read]
      · next h => simp [Memory.read, h, ih]

/-- A write leaves every other element alone. -/
theorem Memory.read_write_other (m : List Host.Cell) (a j : Nat) (x : Byte) (h : j ≠ a) :
    Memory.read (Memory.write m a x) j = Memory.read m j := by
  induction m with
  | nil => simp [Memory.write, Memory.read, h]
  | cons c m ih =>
    obtain ⟨b, v⟩ := c
    unfold Memory.write
    split
    · simp [Memory.read, h]
    · split
      · next hb => subst hb; simp [Memory.read, h]
      · simp [Memory.read, ih]

/-- The cells of a written memory: the new one and old ones. -/
theorem Memory.mem_write {m : List Host.Cell} {a : Nat} {x : Byte} {c : Host.Cell}
    (h : c ∈ Memory.write m a x) : c = (a, x) ∨ c ∈ m := by
  induction m with
  | nil => simpa [Memory.write] using h
  | cons d m ih =>
    obtain ⟨b, v⟩ := d
    unfold Memory.write at h
    split at h
    · simpa using h
    · split at h
      · rcases List.mem_cons.1 h with h | h
        · exact .inl h
        · exact .inr (List.mem_cons_of_mem _ h)
      · rcases List.mem_cons.1 h with h | h
        · exact .inr (h ▸ List.mem_cons_self)
        · exact (ih h).imp id (List.mem_cons_of_mem _)

/-- Every write keeps the canonical form. -/
theorem Memory.wf_write {m : List Host.Cell} (a : Nat) (x : Byte) (h : Memory.wf m) :
    Memory.wf (Memory.write m a x) := by
  induction m with
  | nil => simp [Memory.write, Memory.wf]
  | cons d m ih =>
    obtain ⟨b, v⟩ := d
    have hm := List.pairwise_cons.1 h
    unfold Memory.write
    split
    · next hab =>
      refine List.pairwise_cons.2 ⟨fun c hc => ?_, h⟩
      rcases List.mem_cons.1 hc with rfl | hc
      · exact hab
      · exact Nat.lt_trans hab (hm.1 c hc)
    · split
      · next hab => subst hab; exact List.pairwise_cons.2 hm
      · refine List.pairwise_cons.2 ⟨fun c hc => ?_, ih hm.2⟩
        rcases Memory.mem_write hc with rfl | hc
        · show b < a
          omega
        · exact hm.1 c hc

/-- Reset's BYTEBUF and PERM have the canonical form. -/
theorem Memory.wf_reset : Memory.wf State.reset.bytebuf ∧ Memory.wf State.reset.perm :=
  ⟨List.Pairwise.nil, List.Pairwise.nil⟩

/-- A host write of an element keeps the canonical form of both memories. -/
theorem writeElem_wf (s : State) (space : Space) (i : Nat) (v : Byte)
    (h : Memory.wf s.bytebuf ∧ Memory.wf s.perm) :
    Memory.wf (writeElem s space i v).bytebuf ∧ Memory.wf (writeElem s space i v).perm := by
  cases space with
  | bytebuf => exact ⟨Memory.wf_write i v h.1, h.2⟩
  | words => exact h
  | perm => exact ⟨h.1, Memory.wf_write i v h.2⟩
  | permAct => exact h
  | block => exact h

@[simp] theorem State.permTable_length (s : State) : s.permTable.length = 128 := by simp [State.permTable]

theorem bytebufCap_pos : 1 ≤ Config.bytebufCap := by unfold Config.bytebufCap; omega

theorem bytebufCap_le : Config.bytebufCap ≤ 2 ^ 32 - 1 := by
  have := Config.bytebufCapPred.isLt
  unfold Config.bytebufCap
  omega

/-- The listed element `W[k]` of the stream. -/
theorem State.wordAt_of_lt (s : State) (k : Nat) (h : k < s.words.length) : s.wordAt k = s.words[k] := by
  simp [State.wordAt, h]

end Sys2Proof.Machine
end

