-- ==== Sys2Proof/Laws/PerInstr.lean ====
section
/-! SUPPORT. A law of every operation, one lemma per constructor: the encoder drops nothing, so that two operations
with the same encoding are one operation. -/

namespace Sys2Proof.Laws.EncodeInjective

/-- No other operation has the encoding of `i`. -/
def Statement (i : Instr) : Prop := ∀ j : Instr, encode j = encode i → j = i

theorem nop : Statement .nop := by
  intro j h
  cases j <;> simp_all [encode]

theorem configure : Statement .configure := by
  intro j h
  cases j <;> simp_all [encode]

theorem decode : Statement .decode := by
  intro j h
  cases j <;> simp_all [encode]

theorem poll : Statement .poll := by
  intro j h
  cases j <;> simp_all [encode]

theorem readWord (i : Nat) : Statement (.readWord i) := by
  intro j h
  cases j <;> simp_all [encode]

theorem field32 (k : Nat) : Statement (.field32 k) := by
  intro j h
  cases j <;> simp_all [encode]

theorem seekNext (pos : Nat) : Statement (.seekNext pos) := by
  intro j h
  cases j <;> simp_all [encode]

theorem append (start stop : Nat) : Statement (.append start stop) := by
  intro j h
  cases j <;> simp_all [encode]

theorem makeLink (pos : Nat) : Statement (.makeLink pos) := by
  intro j h
  cases j <;> simp_all [encode]

theorem rowCount : Statement .rowCount := by
  intro j h
  cases j <;> simp_all [encode]

theorem unpackGroup (w0 w1 w2 : Word) : Statement (.unpackGroup w0 w1 w2) := by
  intro j h
  cases j <;> simp_all [encode]

theorem unpackRow (row : List Word) : Statement (.unpackRow row) := by
  intro j h
  cases j <;> simp_all [encode]

theorem unpackLink (i : Fin 4) : Statement (.unpackLink i) := by
  intro j h
  cases j <;> simp_all [encode, Fin.ext_iff]

theorem assemble : Statement .assemble := by
  intro j h
  cases j <;> simp_all [encode]

theorem verifyTable : Statement .verifyTable := by
  intro j h
  cases j <;> simp_all [encode]

theorem remap : Statement .remap := by
  intro j h
  cases j <;> simp_all [encode]

end Sys2Proof.Laws.EncodeInjective
end

