-- ==== Sys2Proof/Machine/Script.lean ====
section
/-! DEFINITION. The script notation of 30_encoding.md R88 and R89 as lists of requests.  No rule of the core rests on
it: it only writes host scripts down. -/

namespace Sys2Proof.Machine

/-- `cmd NAME`: "the register write `wr CMD, code`" (R88). -/
def scriptCmd (code : Reg32) : Request := .access (.wr regCmd code)

/-- The two element writes of one Word of `stream`: high byte at `2j`, low byte at `2j + 1` (R89). -/
def scriptWord (j : Nat) (w : Word) : List Request :=
  [.access (.wrm .bytebuf (2 * j) ((w >>> 8).setWidth 8)), .access (.wrm .bytebuf (2 * j + 1) (w.setWidth 8))]

/-- `stream w0 w1 ... w(n-1)` (R89). -/
def scriptStream (ws : List Word) : List Request :=
  (ws.mapIdx scriptWord).flatten ++ [.access (.wr 0x04#8 (BitVec.ofNat 32 (2 * ws.length)))]

/-- `perm_identity`: `wrm PERM[e], e + 1` (R89). -/
def scriptPermIdentity : List Request :=
  (List.range 128).map fun e => .access (.wrm .perm e (BitVec.ofNat 8 (e + 1)))

/-- `perm_reverse`: `wrm PERM[e], 128 - e` (R89). -/
def scriptPermReverse : List Request :=
  (List.range 128).map fun e => .access (.wrm .perm e (BitVec.ofNat 8 (128 - e)))

/-- `poll`: `cmd POLL` followed by `rd OUTCOME` (R89). -/
def scriptPoll : List Request := [scriptCmd 0x03#32, .access (.rd 0x02#8)]

end Sys2Proof.Machine
end

