-- ==== Sys2Proof/Tests/Slice0.lean ====
section
/-! SUPPORT. Small checks of the model against the worked vectors of 95_test_vectors.md (V<n>, P<n>) and against words
written out from 30_encoding.md, and, for every statement with hypotheses, a state and operands that meet them. -/

namespace Sys2Proof.Tests

open Sys2Proof Sys2Proof.Machine

/-! ### Helpers -/

/-- Something of the next state, if there is one. -/
def after {α : Type} (r : Result) (f : State → α) : Option α :=
  match r with
  | .next s => some (f s)
  | .fault _ => none
  | .refused _ => none

/-- `perm_identity` as a table (R89). -/
def identityTable : List Byte := (List.range 128).map fun e => BitVec.ofNat 8 (e + 1)

/-- The same as the cells of PERM. -/
def identityCells : List Host.Cell := (List.range 128).map fun e => (e, BitVec.ofNat 8 (e + 1))

/-- `perm_reverse` as a table (R89). -/
def reverseTable : List Byte := (List.range 128).map fun e => BitVec.ofNat 8 (128 - e)

/-- A configured core with a stream, the identity table, NOMINAL, MAX_ROWS and CURSOR. -/
def ready (ws : List Word) (nominal maxRows cursor : Reg32) : State :=
  { State.reset with
    status := ⟨true, false, false⟩
    words := ws
    nwords := BitVec.ofNat 32 ws.length
    permAct := identityTable
    nominal := nominal
    maxRows := maxRows
    cursor := cursor }

/-- A reset core with one request pending. -/
def asking (r : Request) : State := { State.reset with pending := [r] }

/-- V4. -/
def wordsV4 : List Word :=
  [0x0000#16, 0x0007#16, 0x0000#16, 0x0000#16, 0x1111#16, 0x2222#16, 0x0000#16, 0x0008#16, 0x0000#16, 0x0000#16]

/-- V8: the low Word of the reserved field is 1. -/
def wordsV8 : List Word :=
  [0x0000#16, 0x0007#16, 0x0000#16, 0x0001#16, 0x1111#16, 0x0000#16, 0x0008#16, 0x0000#16, 0x0000#16]

/-- V14: a carry between the two Words of the counter. -/
def wordsV14 : List Word :=
  [0x0001#16, 0xFFFF#16, 0x0000#16, 0x0000#16, 0x5555#16, 0x0002#16, 0x0000#16, 0x0000#16, 0x0000#16]

/-- V15: V14 with the Words of each field swapped. -/
def wordsV15 : List Word :=
  [0xFFFF#16, 0x0001#16, 0x0000#16, 0x0000#16, 0x5555#16, 0x0000#16, 0x0002#16, 0x0000#16, 0x0000#16]

/-- V18: PKG(1; 0001 0002 0003) PKG(2; 0004 0005) PKG(3; 0006). -/
def wordsV18 : List Word :=
  [0x0000#16, 0x0001#16, 0x0000#16, 0x0000#16, 0x0001#16, 0x0002#16, 0x0003#16,
   0x0000#16, 0x0002#16, 0x0000#16, 0x0000#16, 0x0004#16, 0x0005#16,
   0x0000#16, 0x0003#16, 0x0000#16, 0x0000#16, 0x0006#16]

/-- V37: three one-Word packages. -/
def wordsV37 : List Word :=
  [0x0000#16, 0x0001#16, 0x0000#16, 0x0000#16, 0xAAAA#16, 0x0000#16, 0x0002#16, 0x0000#16, 0x0000#16, 0xBBBB#16,
   0x0000#16, 0x0003#16, 0x0000#16, 0x0000#16, 0xCCCC#16]

/-- V36: the same and a bare header. -/
def wordsV36 : List Word := wordsV37 ++ [0x0000#16, 0x0004#16, 0x0000#16, 0x0000#16]

/-- V27: the 25 Words of a row whose column c holds 0x100 + c. -/
def rowV27 : List Word :=
  [0xFACE#16, 0x6107#16, 0x0510#16, 0x1041#16, 0x2103#16, 0x0110#16, 0x1001#16, 0xE10F#16, 0x0D10#16, 0x10C1#16,
   0xA10B#16, 0x0910#16, 0x1081#16, 0x6117#16, 0x1511#16, 0x1141#16, 0x2113#16, 0x1111#16, 0x1101#16, 0xE11F#16,
   0x1D11#16, 0x11C1#16, 0xA11B#16, 0x1911#16, 0x1181#16]

/-- The four packages of P1, 120 Words. -/
def wordsP1 : List Word :=
  [0x0000#16, 0x0010#16, 0x0000#16, 0x0000#16, 0x0000#16] ++ rowV27 ++
  [0x0000#16, 0x0011#16, 0x0000#16, 0x0000#16, 0x0000#16, 0xFACE#16, 0x6207#16, 0x0520#16, 0x2042#16, 0x2203#16,
   0x0120#16, 0x2002#16, 0xE20F#16, 0x0D20#16, 0x20C2#16, 0xA20B#16, 0x0920#16, 0x2082#16, 0x6217#16, 0x1521#16,
   0x2142#16, 0x2213#16, 0x1121#16, 0x2102#16, 0xE21F#16, 0x1D21#16, 0x21C2#16, 0xA21B#16, 0x1921#16, 0x2182#16] ++
  [0x0000#16, 0x0012#16, 0x0000#16, 0x0000#16, 0x0000#16, 0xFACE#16, 0x6307#16, 0x0530#16, 0x3043#16, 0x2303#16,
   0x0130#16, 0x3003#16, 0xE30F#16, 0x0D30#16, 0x30C3#16, 0xA30B#16, 0x0930#16, 0x3083#16, 0x6317#16, 0x1531#16,
   0x3143#16, 0x2313#16, 0x1131#16, 0x3103#16, 0xE31F#16, 0x1D31#16, 0x31C3#16, 0xA31B#16, 0x1931#16, 0x3183#16] ++
  [0x0000#16, 0x0013#16, 0x0000#16, 0x0000#16, 0x0000#16, 0xFACE#16, 0x6407#16, 0x0540#16, 0x4044#16, 0x2403#16,
   0x0140#16, 0x4004#16, 0xE40F#16, 0x0D40#16, 0x40C4#16, 0xA40B#16, 0x0940#16, 0x4084#16, 0x6417#16, 0x1541#16,
   0x4144#16, 0x2413#16, 0x1141#16, 0x4104#16, 0xE41F#16, 0x1D41#16, 0x41C4#16, 0xA41B#16, 0x1941#16, 0x4184#16]

/-- The cells of BLOCK a program reads, by element index 128*r + c. -/
def cells (s : State) (ix : List Nat) : List Cell16 := ix.map s.cellAt

/-! ### WellFormed: an ill-formed term for each check -/

theorem test_illFormed_readWord : wellFormed (.readWord (2 ^ 31 - 1)) = false := by decide
theorem test_wellFormed_readWord : wellFormed (.readWord (2 ^ 31 - 2)) = true := by decide
theorem test_illFormed_field32 : wellFormed (.field32 (2 ^ 31 - 2)) = false := by decide
theorem test_illFormed_append_order : wellFormed (.append 5 4) = false := by decide
theorem test_illFormed_append_bound : wellFormed (.append 0 (2 ^ 31)) = false := by decide
theorem test_illFormed_unpackRow : wellFormed (.unpackRow (rowV27.take 24)) = false := by decide
theorem test_illFormed_unit_is_refused :
    step (asking (.unit ⟨.append, [5, 4], []⟩)) = .refused (.illFormed (.append 5 4)) := rfl
theorem test_malformed_frame_is_refused :
    step (asking (.unit ⟨.unpackLink, [4], []⟩)) = .refused (.undecodable .unpackLink) := rfl

/-! ### Decode: words written out from 30_encoding.md -/

/-- CMD8, code 0x00 (R82); the upper bits are ignored. -/
theorem test_decode_nop : decodeTableWord 32 0xFFFFFF00 = some .nop := by decide
theorem test_decode_configure : decodeTableWord 32 0x00000001 = some .configure := by decide
/-- V40: "`wr CMD, 0x102` is DECODE". -/
theorem test_decode_decode : decodeTableWord 32 0x00000102 = some .decode := by decide
theorem test_decode_poll : decodeTableWord 32 0x00000003 = some .poll := by decide
theorem test_decode_reserved : decodeCmd 0x00000004#32 = .reserved 0x04#8 ∧
    decodeCmd 0x000001FF#32 = .reserved 0xFF#8 := by decide
/-- WORD (R71): bytes FE ED. -/
theorem test_decode_readWord : decodeTableWord 16 0xFEED = some (.readWord 0) := by decide
/-- FIELD32 (R72): W[0] = 0001, W[1] = FFFF. -/
theorem test_decode_field32 : decodeTableWord 32 0x0001FFFF = some (.field32 0) := by decide
/-- HEADER (R73): seq = 0x0001FFFF, res = 0. -/
theorem test_decode_seekNext : decodeTableWord 64 0x0001FFFF00000000 = some (.seekNext 0) := by decide
/-- QUIRK (R75), both markers. -/
theorem test_decode_append : decodeTableWord 32 0x0000FACE = some (.append 0 2) ∧
    decodeTableWord 32 0x0000FEED = some (.append 0 2) := by decide
/-- PACKAGE (R74): a header and one bit of payload. -/
theorem test_decode_makeLink : decodeTableWord 65 0x0000000E000000001 = some (.makeLink 0) := by decide
/-- LINKBUF (R78): five Words, less than a row. -/
theorem test_decode_rowCount : decodeTableWord 80 0x11112222333344445555 = some .rowCount := by decide
/-- GROUP (R76): w0 = 1234, w1 = 5678, w2 = 9ABC in stream order. -/
theorem test_decode_unpackGroup :
    decodeTableWord 48 0x123456789ABC = some (.unpackGroup 0x1234#16 0x5678#16 0x9ABC#16) := by decide
/-- ROW (R77): V27's 25 Words in stream order. -/
theorem test_decode_unpackRow :
    decodeTableWord 400
      0xFACE610705101041210301101001E10F0D1010C1A10B09101081611715111141211311111101E11F1D1111C1A11B19111181 =
      some (.unpackRow rowV27) := by decide +kernel
/-- LINKBUF (R78): two whole rows of zeros. -/
theorem test_decode_unpackLink : decodeTableWord 800 0 = some (.unpackLink 0) := by decide
/-- BLOCK (R79): the cell 0x0FFF. -/
theorem test_decode_assemble : decodeTableWord 16 0x0FFF = some .assemble := by decide
/-- PERMENT (R80): entry 129 is illegal, entries 1 and 128 are legal. -/
theorem test_decode_verifyTable : decodeTableWord 8 129 = some .verifyTable ∧
    decodeTableWord 8 0 = some .verifyTable := by decide
theorem test_decode_remap : decodeTableWord 8 1 = some .remap ∧ decodeTableWord 8 128 = some .remap := by decide

/-! ### Fetching -/

/-- `DECODE` as the first instruction after reset: an unconfigured core reports NONE (V34). -/
theorem test_fetch_decode :
    after (step (State.reset.withFetchWord 32 0x00000102)) (fun s => (s.outcome, s.pending)) = some (.none, []) := by
  decide
/-- V25 through the fetch. -/
theorem test_fetch_unpackGroup :
    after (step (State.reset.withFetchWord 48 0x123456789ABC)) (fun s => s.work.group) =
      some ⟨0x9AB#12, 0xC56#12, 0x781#12, 0x234#12⟩ := by decide
/-- V2 through the fetch: bytes FE ED. -/
theorem test_fetch_readWord :
    after (step (State.reset.withFetchWord 16 0xFEED)) (fun s => s.work.word) = some 0xFEED#16 := by decide
/-- Nothing pending: the core is idle (R208). -/
theorem test_idle : step State.reset = .next State.reset := rfl

/-! ### Host accesses -/

/-- R25: only bit 0 of a CTRL write counts. -/
theorem test_write_ctrl :
    after (step (asking (.access (.wr 0x03#8 0xFFFFFFFE#32)))) (fun s => readReg s 0x03#8) = some 0#32 := by decide
theorem test_read_linkstat :
    after (step { ready [] 0#32 0#32 0#32 with
      linkStat := ⟨.complete, .complete, .complete, .truncated⟩, pending := [.access (.rd 0x0E#8)] })
      (fun s => s.readData) = some 0x95#32 := by decide
/-- R32, R38: an element of PERM written and read. -/
theorem test_write_perm :
    after (step (asking (.access (.wrm .perm 127 0xAB#8)))) (fun s => s.permAt 127) = some 0xAB#8 := by decide
/-- V40: a reserved code changes nothing. -/
theorem test_reserved_code :
    after (step (asking (.access (.wr 0x00#8 0xFF#32)))) (fun s => decide (s = { State.reset with draws := 1 })) =
      some true := by decide
/-- The `stream` pseudo-operation writes the high byte first (R89, R51). -/
theorem test_script_stream :
    scriptStream [0x1234#16] =
      [.access (.wrm .bytebuf 0 0x12#8), .access (.wrm .bytebuf 1 0x34#8), .access (.wr 0x04#8 2#32)] := by decide

/-! ### WordReader -/

/-- V1. -/
theorem test_readWord :
    after (exec (.readWord 1) { State.reset with bytebuf := [(0, 0x12#8), (1, 0x34#8), (2, 0x56#8), (3, 0x78#8)] })
      (fun s => s.work.word) = some 0x5678#16 := by decide
/-- V3. -/
theorem test_field32 :
    after (exec (.field32 1) (ready [0x0001#16, 0xFFFF#16, 0x0000#16, 0x0000#16] 0#32 0#32 0#32))
      (fun s => s.work.field) = some 0xFFFF0000#32 := by decide

/-! ### PackageFramer -/

/-- V14 and V15: the pair tells the two Word orders apart. -/
theorem test_seekNext_carry :
    after (exec (.seekNext 0) (ready wordsV14 0#32 0#32 0#32)) (fun s => s.work.seek) = some (some (.packageEnd 5)) ∧
    after (exec (.seekNext 0) (ready wordsV15 0#32 0#32 0#32)) (fun s => s.work.seek) = some (some .endOfData) := by
  decide
/-- V4, V5, V8. -/
theorem test_seekNext_ends :
    seekNext (ready wordsV4 0#32 0#32 0#32).wordAt 10 0 = .packageEnd 6 ∧
    seekNext (ready wordsV4 0#32 0#32 0#32).wordAt 10 6 = .endOfData ∧
    seekNext (ready wordsV4 0#32 0#32 0#32).wordAt 10 7 = .endOfData ∧
    seekNext (ready wordsV8 0#32 0#32 0#32).wordAt 9 0 = .corruptStream := by decide

/-! ### LinkAssembler -/

/-- V21: the quirk, and `0000 0000 FACE 0001`, where only the first two Words are tested. -/
theorem test_append :
    after (exec (.append 0 4) (ready [0x0000#16, 0xFACE#16, 0x1234#16, 0x5678#16] 0#32 0#32 0#32))
      (fun s => s.work.buf) = some [0xFACE#16, 0x1234#16, 0x5678#16] ∧
    after (exec (.append 0 4) (ready [0x0000#16, 0x0000#16, 0xFACE#16, 0x0001#16] 0#32 0#32 0#32))
      (fun s => s.work.buf) = some [0x0000#16, 0x0000#16, 0xFACE#16, 0x0001#16] := by decide
/-- V21: one Word only, and the other marker behind Words already in the buffer. -/
theorem test_append_short :
    append (ready [0x0000#16, 0xFEED#16] 0#32 0#32 0#32).wordAt 0 1 [] = [0x0000#16] ∧
    append (ready [0x0000#16, 0xFEED#16] 0#32 0#32 0#32).wordAt 0 2 [7#16] = [7#16, 0xFEED#16] := by decide
/-- V18 at position 0. -/
theorem test_makeLink_complete :
    after (exec (.makeLink 0) (ready wordsV18 3#32 16#32 0#32))
      (fun s => s.work.link.map fun r => (r.buf, r.next, r.out)) =
      some (some ([1#16, 2#16, 3#16, 4#16, 5#16], 13, .complete)) := by decide
/-- V19: a payload of exactly NOMINAL Words does not end the link. -/
theorem test_makeLink_truncated :
    after (exec (.makeLink 0) (ready wordsV18 2#32 16#32 0#32)) (fun s => s.work.link) =
      some (some ⟨[1#16, 2#16, 3#16, 4#16, 5#16, 6#16], 18, 13, .truncated⟩) := by decide
/-- V23. -/
theorem test_rowCount :
    [0, 24, 25, 49, 50, 51].map (fun n =>
      after (exec .rowCount (State.reset.setWork { Work.empty with buf := List.replicate n 0#16 }))
        (fun s => s.work.count)) = [some 0, some 0, some 1, some 1, some 2, some 2] := by decide

/-! ### SampleUnpacker -/

/-- V25 and one line of V26. -/
theorem test_unpackGroup :
    after (exec (.unpackGroup 0x1234#16 0x5678#16 0x9ABC#16) State.reset) (fun s => s.work.group) =
      some ⟨0x9AB#12, 0xC56#12, 0x781#12, 0x234#12⟩ ∧
    after (exec (.unpackGroup 0x0000#16 0xFF00#16 0x000F#16) State.reset) (fun s => s.work.group) =
      some ⟨0x000#12, 0xFFF#12, 0x000#12, 0x000#12⟩ := by decide
/-- V27. -/
theorem test_unpackRow :
    after (exec (.unpackRow rowV27) State.reset) (fun s => s.work.row) =
      some ((List.range 32).map fun c => BitVec.ofNat 12 (0x100 + c)) := by decide
/-- V28: 49 Words are one row. -/
theorem test_unpackLink :
    after (exec (.unpackLink 2) (State.reset.setWork { Work.empty with buf := rowV27 ++ rowV27.take 24 }))
      (fun s => (s.work.rows.l2, s.work.rows.l0)) =
      some ([(List.range 32).map fun c => BitVec.ofNat 12 (0x100 + c)], []) := by decide

/-! ### TriggerAssembler and ChannelRemapper -/

/-- One 32-column row of V29's values: `0x100*(i+1) + 0x20*r + c`. -/
def rowV29 (i r : Nat) : SampleRow := (List.range 32).map fun c => BitVec.ofNat 12 (0x100 * (i + 1) + 0x20 * r + c)

/-- Links of 2, 1, 1, 1 rows (V29, shorter): the fill is in columns 32 to 127 of row 1. -/
theorem test_assemble :
    after (exec .assemble (State.reset.setWork
      { Work.empty with rows := ⟨[rowV29 0 0, rowV29 0 1], [rowV29 1 0], [rowV29 2 0], [rowV29 3 0]⟩ }))
      (fun s => (s.work.blk.length, s.work.blk.map fun row => [row[0]?, row[31]?, row[32]?, row[127]?])) =
      some (2, [[some 0x100#16, some 0x11F#16, some 0x200#16, some 0x41F#16],
        [some 0x120#16, some 0x13F#16, some 0#16, some 0#16]]) := by decide
/-- V31, V32: the identity passes; 0 or 129 or a repeated value does not. -/
theorem test_verifyTable :
    after (exec .verifyTable { State.reset with perm := identityCells }) (fun s => s.work.verified) =
      some (some true) ∧
    verifyTable (0#8 :: identityTable.drop 1) = false ∧ verifyTable (129#8 :: identityTable.drop 1) = false ∧
    verifyTable (2#8 :: identityTable.drop 1) = false := by decide +kernel
/-- V33: with t = 3, 1, 2, 4, 5, … electronics columns 0, 1, 2 go to output columns 2, 0, 1. -/
theorem test_remap :
    after (exec .remap { ready [] 0#32 0#32 0#32 with
      permAct := [3#8, 1#8, 2#8] ++ identityTable.drop 3
      work := { Work.empty with blk := [(List.range 128).map fun c => BitVec.ofNat 16 (c + 10)] } })
      (fun s => s.work.blk.map fun row => (row.length, row.take 4)) =
      some [(128, [11#16, 12#16, 10#16, 13#16])] := by decide +kernel

/-! ### The commands -/

/-- V40. -/
theorem test_nop :
    after (exec .nop { ready wordsV36 4#32 16#32 0#32 with outcome := .shortRead }) (fun s => s.outcome) =
      some .shortRead := by decide
/-- V35: an empty source. -/
theorem test_configure_empty :
    after (exec .configure { ready wordsV36 4#32 16#32 7#32 with perm := identityCells })
      (fun s => (s.outcome, s.status.toReg, s.nwords, s.cursor)) = some (.configurationError, 0#32, 0#32, 0#32) := by
  decide
/-- V1, V35: five bytes make two Words, the odd byte is dropped, at any BYTEBUF_CAP of five or more. -/
theorem test_configure_words :
    (fun s => (s.outcome, s.status.toReg, s.words, s.nwords, s.permAct))
      (configureWith 5 { State.reset with
        nbytes := 5#32, perm := identityCells,
        bytebuf := [(0, 0x12#8), (1, 0x34#8), (2, 0x56#8), (3, 0x78#8), (4, 0x9A#8)] }) =
      (.none, 1#32, [0x1234#16, 0x5678#16], 2#32, identityTable) := by decide +kernel
/-- V36: a zero-row block, the last link a bare header. -/
theorem test_decode_bare_header :
    after (exec .decode (ready wordsV36 4#32 16#32 0#32))
      (fun s => (s.outcome, s.nrows, s.cursor, linkStatReg s.linkStat)) = some (.block, 0#32, 19#32, 0x95#32) := by
  decide
/-- The first trigger of P1: the block in electronics order, and through REMAP with P2's table. -/
theorem test_decode_block :
    after (exec .decode (ready wordsP1 30#32 16#32 0#32))
      (fun s => (s.outcome, s.nrows, s.cursor, linkStatReg s.linkStat, cells s [0, 31, 32, 95, 96, 127])) =
      some (.block, 1#32, 120#32, 0x95#32, [0x100#16, 0x11F#16, 0x200#16, 0x31F#16, 0x400#16, 0x41F#16]) ∧
    after (exec .decode { ready wordsP1 30#32 16#32 0#32 with remapEn := true, permAct := reverseTable })
      (fun s => cells s [0, 1, 31, 32, 127]) = some [0x41F#16, 0x41E#16, 0x400#16, 0x31F#16, 0x100#16] := by
  decide +kernel
/-- V36: at the end of the data POLL reports it and sets DONE. -/
theorem test_poll_end :
    after (exec .poll (ready wordsV36 4#32 16#32 19#32)) (fun s => (s.outcome, s.status.toReg, s.cursor)) =
      some (.endOfData, 5#32, 19#32) := by decide
/-- P4: the row bound through POLL; FATAL is set and the package at fault is pointed to. -/
theorem test_poll_exceeded :
    after (exec .poll (ready wordsP1 30#32 0#32 0#32))
      (fun s => (s.outcome, s.status.toReg, s.cursor, s.nrows)) = some (.exceededMaxRows, 3#32, 0#32, 0#32) := by
  decide +kernel

/-! ### Witnesses: a state and operands that meet the hypotheses of each statement -/

/-- A ready core whose next request is a write to CMD. -/
def commanded (v : Reg32) : State :=
  { ready wordsV36 4#32 16#32 0#32 with pending := [.access (.wr 0x00#8 v)] }

/-- StepRunsDecodedInstruction: a unit frame; DECODE with upper bits; nothing pending. -/
theorem test_witness_step :
    ((asking (.unit ⟨.unpackLink, [3], []⟩)).pending = requestOf (.unit ⟨.unpackLink, [3], []⟩) :: [] ∧
      decode (.unit ⟨.unpackLink, [3], []⟩) = .instr (.unpackLink 3) ∧ wellFormed (.unpackLink 3) = true) ∧
    ((commanded 0x102#32).pending = requestOf (.cmd 0x102#32) :: [] ∧ decode (.cmd 0x102#32) = .instr .decode ∧
      wellFormed .decode = true) ∧ State.reset.pending = [] := by decide

/-- DecodeInvertsEncode: the largest operands the form admits. -/
theorem test_witness_encode :
    wellFormed (.readWord (2 ^ 31 - 2)) = true ∧ wellFormed (.field32 (2 ^ 31 - 3)) = true ∧
    wellFormed (.append (2 ^ 31 - 1) (2 ^ 31 - 1)) = true ∧ wellFormed (.append 0 0) = true ∧
    wellFormed (.unpackRow rowV27) = true ∧ wellFormed (.makeLink (2 ^ 40)) = true ∧ wellFormed .poll = true := by
  decide

/-- CommandCodeIsLowByte: each code, the two ends of the reserved range, and upper bits set. -/
theorem test_witness_codes :
    (0xFFFFFF00#32).toNat % 256 = 0 ∧ (0x101#32).toNat % 256 = 1 ∧ (0x102#32).toNat % 256 = 2 ∧
    (0x103#32).toNat % 256 = 3 ∧ 4 ≤ (0x04#32).toNat % 256 ∧ 4 ≤ (0xFFFFFFFF#32).toNat % 256 := by decide

/-- RegisterReadReturnsItsRegister. -/
theorem test_witness_register_read :
    (asking (.access (.rd 0x0E#8))).pending = [.access (.rd 0x0E#8)] ∧
    (asking (.access (.rd 0x00#8))).pending = [.access (.rd 0x00#8)] := ⟨rfl, rfl⟩

/-- RegisterWriteReadsBack: a register the host may write, CTRL, a read-only one. -/
theorem test_witness_register_write :
    ((asking (.access (.wr 0x08#8 0xFFFFFFFF#32))).pending = [.access (.wr 0x08#8 0xFFFFFFFF#32)] ∧ 0x08#8 ≠ 0x00#8) ∧
    ((asking (.access (.wr 0x03#8 3#32))).pending = [.access (.wr 0x03#8 3#32)] ∧ 0x03#8 ≠ 0x00#8) ∧
    ((asking (.access (.wr 0x05#8 9#32))).pending = [.access (.wr 0x05#8 9#32)] ∧ 0x05#8 ≠ 0x00#8) := by decide

/-- ReservedRegistersAreInert: both ends of the reserved numbers, a read and a write. -/
theorem test_witness_reserved :
    (0x0F ≤ (0x0F#8).toNat ∧ (asking (.access (.rd 0x0F#8))).pending = [.access (.rd 0x0F#8)]) ∧
    (0x0F ≤ (0xFF#8).toNat ∧ (asking (.access (.wr 0xFF#8 1#32))).pending = [.access (.wr 0xFF#8 1#32)]) := by decide

/-- ElementWriteReadsBack: the first and the last element of BYTEBUF, the last of PERM. -/
theorem test_witness_element_write :
    ((asking (.access (.wrm .bytebuf 0 5#8))).pending = [.access (.wrm .bytebuf 0 5#8)] ∧ 0 < Config.bytebufCap) ∧
    Config.bytebufCap - 1 < Config.bytebufCap ∧
    ((asking (.access (.wrm .perm 127 5#8))).pending = [.access (.wrm .perm 127 5#8)] ∧ 127 < 128) :=
  ⟨⟨rfl, bytebufCap_pos⟩, Nat.sub_lt bytebufCap_pos Nat.one_pos, rfl, by decide⟩

/-- ReadOnlyArraysIgnoreWrites: PERM_ACT and BLOCK.  WORDS has an element where BYTEBUF_CAP is 2 at least (the
parameter is open, log entry 5). -/
theorem test_witness_read_only :
    ((asking (.access (.wrm .permAct 127 5#8))).pending = [.access (.wrm .permAct 127 5#8)] ∧
      inSpace .permAct 127 = true) ∧
    ((asking (.access (.wrm .block 4096 5#8))).pending = [.access (.wrm .block 4096 5#8)] ∧
      inSpace .block 4096 = true) ∧
    (2 ≤ Config.bytebufCap → (asking (.access (.wrm .words 0 5#8))).pending = [.access (.wrm .words 0 5#8)] ∧
      inSpace .words 0 = true) :=
  ⟨⟨rfl, rfl⟩, ⟨rfl, rfl⟩, fun h => ⟨rfl, decide_eq_true (by omega)⟩⟩

/-- OutsideArrayIsRefused: the first index outside each array, and any index of BLOCK. -/
theorem test_witness_outside :
    ((asking (.access (.rdm .bytebuf Config.bytebufCap))).pending = [.access (.rdm .bytebuf Config.bytebufCap)] ∧
      Config.bytebufCap ≤ Config.bytebufCap) ∧
    ((asking (.access (.wrm .words (Config.bytebufCap / 2) 0#8))).pending =
      [.access (.wrm .words (Config.bytebufCap / 2) 0#8)] ∧ Config.bytebufCap / 2 ≤ Config.bytebufCap / 2) ∧
    ((asking (.access (.wrm .perm 128 0#8))).pending = [.access (.wrm .perm 128 0#8)] ∧ 128 ≤ 128) ∧
    ((asking (.access (.rdm .permAct 128))).pending = [.access (.rdm .permAct 128)] ∧ 128 ≤ 128) ∧
    (asking (.access (.rdm .block 99999))).pending = [.access (.rdm .block 99999)] :=
  ⟨⟨rfl, le_refl _⟩, ⟨rfl, le_refl _⟩, ⟨rfl, le_refl _⟩, ⟨rfl, le_refl _⟩, rfl⟩

/-- A core with a one-row block and a request. -/
def withBlock (r : Request) : State :=
  { ready wordsV36 4#32 16#32 0#32 with
    outcome := .block, nrows := 1#32, block := [List.replicate 128 7#16], pending := [r] }

/-- ElementReadReturnsElement: the last elements of BYTEBUF and PERM, written. -/
theorem test_witness_element_read_written :
    (({ asking (.access (.rdm .bytebuf (Config.bytebufCap - 1))) with
        bytebuf := [(Config.bytebufCap - 1, 5#8)] } : State).pending =
      [.access (.rdm .bytebuf (Config.bytebufCap - 1))] ∧
      Memory.read [(Config.bytebufCap - 1, 5#8)] (Config.bytebufCap - 1) = some 5#8 ∧
      Config.bytebufCap - 1 < Config.bytebufCap) ∧
    (({ asking (.access (.rdm .perm 127)) with perm := identityCells } : State).pending = [.access (.rdm .perm 127)] ∧
      Memory.read identityCells 127 = some 128#8 ∧ 127 < 128) :=
  ⟨⟨rfl, if_pos rfl, Nat.sub_lt bytebufCap_pos Nat.one_pos⟩, rfl, by decide +kernel, by decide⟩

/-- ElementReadReturnsElement: the last entry of PERM_ACT, the last cell of a row of BLOCK; the first Word of WORDS
where BYTEBUF_CAP is 2 at least (log entry 5). -/
theorem test_witness_element_read :
    ((withBlock (.access (.rdm .permAct 127))).pending = [.access (.rdm .permAct 127)] ∧
      127 < (withBlock (.access (.rdm .permAct 127))).permAct.length) ∧
    ((withBlock (.access (.rdm .block 127))).pending = [.access (.rdm .block (128 * 0 + 127))] ∧
      ∃ hr : 0 < (withBlock (.access (.rdm .block 127))).block.length,
        127 < ((withBlock (.access (.rdm .block 127))).block[0]).length) ∧
    (2 ≤ Config.bytebufCap → (withBlock (.access (.rdm .words 0))).pending = [.access (.rdm .words 0)] ∧
      0 < (withBlock (.access (.rdm .words 0))).words.length ∧ 0 < Config.bytebufCap / 2) :=
  ⟨⟨rfl, by decide +kernel⟩, ⟨rfl, by decide, by decide +kernel⟩, fun h => ⟨rfl, by decide, by omega⟩⟩

/-- ExternalResetRestoresReset. -/
theorem test_witness_reset : (withBlock .reset).pending = [.reset] := rfl

/-- The invariant holds of a ready core with a stream. -/
theorem test_witness_inv (nominal maxRows cursor : Reg32) : Inv (ready wordsV36 nominal maxRows cursor) where
  bytebufCanonical := List.Pairwise.nil
  permCanonical := List.Pairwise.nil
  bytebufInside := fun c h => by cases h
  permInside := fun c h => by cases h
  wordsLength := rfl
  wordsBound := (by decide : (19#32).toNat ≤ maxWords)
  tableVerified := fun _ => (by decide +kernel : identityTable.length = 128 ∧ verifyTable identityTable = true)
  unconfigured := fun h => by cases h
  blockLength := rfl
  blockShape := fun row h => by cases h
  blockOutcome := fun h => absurd rfl h
  fatalNoBlock := fun h => by cases h
  linkNotRun := fun i _ =>
    match i with
    | 0 => rfl
    | 1 => rfl
    | 2 => rfl
    | 3 => rfl

/-- StepKeepsInvariant: a ready core that runs DECODE and delivers a block. -/
theorem test_witness_step_invariant :
    Inv { ready wordsV36 4#32 16#32 0#32 with pending := [.access (.wr 0x00#8 2#32)] } ∧
    ∃ t, step (commanded 2#32) = .next t ∧ t.outcome = .block := by
  refine ⟨?_, ?_⟩
  · have h := test_witness_inv 4#32 16#32 0#32
    exact ⟨h.1, h.2, h.3, h.4, h.5, h.6, h.7, h.8, h.9, h.10, h.11, h.12, h.13⟩
  · exact ⟨_, rfl, by decide⟩

/-- PackageEndIsLeastSignature, BoundaryCounterIsSuccessor, BoundaryIsNeverCorrupt: V4, and V7's wrap. -/
theorem test_witness_package_end :
    (0 + 4 ≤ 10 ∧ field32 (ready wordsV4 0#32 0#32 0#32).wordAt (0 + 2) = 0#32 ∧
      seekNext (ready wordsV4 0#32 0#32 0#32).wordAt 10 0 = .packageEnd 6) ∧
    seekNext (fun i => [0xFFFF#16, 0xFFFF#16, 0#16, 0#16, 0xAAAA#16, 0#16, 0#16, 0#16, 0#16].getD i 1#16) 9 0 =
      .packageEnd 5 := by decide

/-- SyntheticPackageIsFramed: a payload of one Word, and the empty payload. -/
theorem test_witness_synthetic :
    (∀ k, 4 ≤ k → k < 4 + [0xAAAA#16].length →
      isSignature (fun i => (packPackage 1#32 0#32 [0xAAAA#16] ++ packPackage 2#32 0#32 [] ++ []).getD i 0#16)
        (1#32 + 1#32) k = false) ∧
    (∀ k, 4 ≤ k → k < 4 + ([] : List Word).length →
      isSignature (fun i => (packPackage 1#32 0#32 [] ++ packPackage 2#32 0#32 [] ++ []).getD i 0#16)
        (1#32 + 1#32) k = false) := by
  refine ⟨fun k h1 h2 => ?_, fun k h1 h2 => ?_⟩
  · have : k = 4 := by simp only [List.length_cons, List.length_nil] at h2; omega
    subst this
    decide
  · simp only [List.length_nil] at h2
    omega

/-- LinkEndsWhereRuled: each way a link ends. -/
theorem test_witness_link_ends :
    (makeLink (ready wordsV18 0#32 0#32 0#32).wordAt 18 3 16 0).out = .complete ∧
    (makeLink (ready wordsV18 0#32 0#32 0#32).wordAt 18 2 16 0).out = .truncated ∧
    (makeLink (ready wordsV18 0#32 0#32 0#32).wordAt 18 2 16 14).out = .corrupt ∧
    14 + 4 ≤ 18 := by decide
theorem test_witness_link_exceeded :
    (makeLink (ready wordsP1 0#32 0#32 0#32).wordAt 120 30 0 0).out = .exceeded ∧ 0 + 4 ≤ 120 := by decide +kernel

/-- UnpackRowCompletes, RowCodecAgrees. -/
theorem test_witness_rows :
    rowV27.length = 25 ∧ (rowV29 0 0).length = 32 ∧ (rowV27.drop 1).length = 24 := by decide

/-- AssembleCompletes: links of 2, 1, 0 and 1 rows. -/
theorem test_witness_assemble :
    ∀ i : Fin 4, ∀ row ∈ (PerLink.mk [rowV29 0 0, rowV29 0 1] [rowV29 1 0] [] [rowV29 3 0]).get i,
      row.length = 32 := by decide

/-- RemapCompletes. -/
theorem test_witness_remap :
    verifiedTable (ready [] 0#32 0#32 0#32).permAct ∧ ∀ row ∈ [List.replicate 128 (7#16 : Cell16)], row.length = 128 :=
  ⟨(by decide +kernel : identityTable.length = 128 ∧ verifyTable identityTable = true), by decide +kernel⟩

/-- NopChangesNothing: code 0 under upper bits, and both ends of the reserved codes. -/
theorem test_witness_nop :
    ((commanded 0x100#32).pending = [.access (.wr regCmd 0x100#32)] ∧ (0x100#32).toNat % 256 = 0) ∧
    ((commanded 0x04#32).pending = [.access (.wr regCmd 0x04#32)] ∧ 4 ≤ (0x04#32).toNat % 256) ∧
    ((commanded 0xFF#32).pending = [.access (.wr regCmd 0xFF#32)] ∧ 4 ≤ (0xFF#32).toNat % 256) := by decide

/-- A reset core with one byte written and the identity table staged: NBYTES = 1 fits every BYTEBUF_CAP. -/
def staged : State := { State.reset with nbytes := 1#32, perm := identityCells }

/-- ConfigureInstallsTheSource (V35). -/
theorem test_witness_configure :
    staged.nbytes ≠ 0#32 ∧ staged.nbytes.toNat ≤ Config.bytebufCap ∧ verifyTable staged.permTable = true :=
  ⟨by decide, bytebufCap_pos, by decide +kernel⟩

/-- ConfigureReportsError: an empty source, a source larger than any BYTEBUF_CAP but the largest, a malformed table. -/
theorem test_witness_configure_error :
    State.reset.nbytes = 0#32 ∧
    verifyTable ({ staged with perm := (0, 2#8) :: identityCells.drop 1 } : State).permTable = false ∧
    (Config.bytebufCap < 2 ^ 32 - 1 →
      ({ staged with nbytes := 0xFFFFFFFF#32 } : State).nbytes.toNat > Config.bytebufCap) :=
  ⟨rfl, by decide +kernel, fun h => h⟩

/-- NothingIsDecodedWhenNotReady: an unconfigured core, one at the end of the data, a fatal one. -/
theorem test_witness_not_ready :
    State.reset.status.configured = false ∧
    ({ ready [] 0#32 0#32 0#32 with status := ⟨true, false, true⟩ } : State).status.done = true ∧
    ({ ready [] 0#32 0#32 0#32 with status := ⟨true, true, false⟩ } : State).status.fatal = true := ⟨rfl, rfl, rfl⟩

/-- EndOfDataIsReported: CURSOR at N, at the last position with no header, and at the largest value (V39). -/
theorem test_witness_end_of_data :
    (readyToDecode (ready wordsV36 4#32 16#32 19#32) ∧
      (ready wordsV36 4#32 16#32 19#32).cursor.toNat + 4 > (ready wordsV36 4#32 16#32 19#32).nwords.toNat) ∧
    (ready wordsV36 4#32 16#32 16#32).cursor.toNat + 4 > (ready wordsV36 4#32 16#32 16#32).nwords.toNat ∧
    (ready wordsV36 4#32 16#32 0xFFFFFFFF#32).cursor.toNat + 4 >
      (ready wordsV36 4#32 16#32 0xFFFFFFFF#32).nwords.toNat ∧
    after (exec .decode (ready wordsV36 4#32 16#32 16#32)) (fun s => s.outcome) = some .endOfData ∧
    after (exec .poll (ready wordsV36 4#32 16#32 0xFFFFFFFF#32)) (fun s => s.outcome) = some .endOfData :=
  ⟨⟨⟨rfl, rfl⟩, by decide⟩, by decide, by decide, by decide, by decide⟩

/-- CorruptStreamIsReported, CorruptStreamOnlyAtCursor (V8). -/
theorem test_witness_corrupt :
    readyToDecode (ready wordsV8 4#32 16#32 0#32) ∧
    (ready wordsV8 4#32 16#32 0#32).cursor.toNat + 4 ≤ (ready wordsV8 4#32 16#32 0#32).nwords.toNat ∧
    field32 (ready wordsV8 4#32 16#32 0#32).wordAt ((ready wordsV8 4#32 16#32 0#32).cursor.toNat + 2) ≠ 0#32 ∧
    after (exec .decode (ready wordsV8 4#32 16#32 0#32)) (fun s => s.outcome) = some .corruptStream :=
  ⟨⟨rfl, rfl⟩, by decide, by decide, by decide⟩

/-- The results of MAKE_LINK at the one-Word packages of V36 and V37, from position `pos` on. -/
def linkAt (ws : List Word) (pos : Nat) : LinkResult := (ready ws 4#32 16#32 0#32).makeLink pos

/-- ShortReadIsReported: two links before the truncated one (V37), and none. -/
theorem test_witness_short_read :
    (readyToDecode (ready wordsV37 4#32 16#32 0#32) ∧
      LinkChain (ready wordsV37 4#32 16#32 0#32) 0 ([linkAt wordsV37 0, linkAt wordsV37 5] ++ [linkAt wordsV37 10]) ∧
      (linkAt wordsV37 10).out = .truncated) ∧
    (LinkChain (ready wordsV37 4#32 16#32 10#32) 10 ([] ++ [linkAt wordsV37 10])) :=
  ⟨⟨⟨rfl, rfl⟩, ⟨rfl, by decide, rfl, by decide, rfl⟩, by decide⟩, rfl⟩

/-- ExceededMaxRowsIsReported: no link before the one over the bound (P4). -/
theorem test_witness_exceeded :
    readyToDecode (ready wordsP1 30#32 0#32 0#32) ∧
    LinkChain (ready wordsP1 30#32 0#32 0#32) 0 ([] ++ [(ready wordsP1 30#32 0#32 0#32).makeLink 0]) ∧
    ((ready wordsP1 30#32 0#32 0#32).makeLink 0).out = .exceeded :=
  ⟨⟨rfl, rfl⟩, rfl, by decide +kernel⟩

/-- BlockIsDelivered, EveryTriggerEndsInAnOutcome (its other ways: test_witness_corrupt, test_witness_short_read,
test_witness_exceeded), PollDeliversWhatDecodeDelivers (V36). -/
theorem test_witness_block :
    readyToDecode (ready wordsV36 4#32 16#32 0#32) ∧
    (ready wordsV36 4#32 16#32 0#32).cursor.toNat + 4 ≤ (ready wordsV36 4#32 16#32 0#32).nwords.toNat ∧
    LinkChain (ready wordsV36 4#32 16#32 0#32) 0
      [linkAt wordsV36 0, linkAt wordsV36 5, linkAt wordsV36 10, linkAt wordsV36 15] ∧
    (linkAt wordsV36 15).out = .truncated ∧ (ready wordsV36 4#32 16#32 0#32).status.done = false :=
  ⟨⟨rfl, rfl⟩, by decide, ⟨rfl, by decide, rfl, by decide, rfl, by decide, rfl⟩, by decide, rfl⟩

/-- EndMarkerIsEmittedOnce: the state POLL leaves at the end of the data. -/
theorem test_witness_end_marker :
    ∃ t, exec .poll (ready wordsV36 4#32 16#32 19#32) = .next t ∧ t.outcome = .endOfData ∧
      ({ t with cursor := 0#32 } : State).status = t.status := ⟨_, rfl, by decide, rfl⟩

/-- ErrorsDeliverNoBlock, CursorMovesForwardInsideStream, ErrorsRepeat, CommandsKeepHostInputs: CORRUPT_STREAM and
END_OF_DATA. -/
theorem test_witness_errors :
    (∃ t, exec .decode (ready wordsV8 4#32 16#32 0#32) = .next t ∧ t.outcome = .corruptStream) ∧
    (∃ t, exec .decode (ready wordsV36 4#32 16#32 17#32) = .next t ∧ t.outcome = .endOfData) ∧
    (∃ t, exec .poll (ready wordsV8 4#32 16#32 0#32) = .next t ∧ t.outcome = .corruptStream) :=
  ⟨⟨_, rfl, by decide⟩, ⟨_, rfl, by decide⟩, _, rfl, by decide⟩
/-- The same, EXCEEDED_MAX_ROWS. -/
theorem test_witness_errors_exceeded :
    ∃ t, exec .decode (ready wordsP1 30#32 0#32 0#32) = .next t ∧ t.outcome = .exceededMaxRows :=
  ⟨_, rfl, by decide +kernel⟩

/-- ShortReadRepeats (V37). -/
theorem test_witness_short_read_repeats :
    ∃ t, exec .decode (ready wordsV37 4#32 16#32 0#32) = .next t ∧ t.outcome = .shortRead := ⟨_, rfl, by decide⟩

/-- DecodeIsDeterministic: two states that differ in BYTEBUF, PERM, NBYTES and the draw index. -/
theorem test_witness_deterministic :
    Inv (ready wordsV36 4#32 16#32 0#32) ∧ readyToDecode (ready wordsV36 4#32 16#32 0#32) ∧
    SameDecodeInputs (ready wordsV36 4#32 16#32 0#32)
      { ready wordsV36 4#32 16#32 0#32 with bytebuf := [(0, 1#8)], perm := identityCells, nbytes := 9#32, draws := 5 } :=
  ⟨test_witness_inv _ _ _, ⟨rfl, rfl⟩, ⟨rfl, rfl, rfl, rfl, rfl, rfl, rfl, rfl⟩⟩

/-- StreamChangesOnlyByConfigureOrReset, FlagsStayUntilConfigureOrReset, OnlyCommandsChangeOutcome: steps that change
the stream, a flag, the outcome. -/
theorem test_witness_rules :
    after (step (commanded 1#32)) (fun s => (s.words, s.outcome)) = some ([], .configurationError) ∧
    after (step (commanded 2#32)) (fun s => s.outcome) = some .block ∧
    after (step { commanded 0x04#32 with status := ⟨true, true, true⟩ }) (fun s => s.status.toReg) = some 7#32 ∧
    after (step (withBlock .reset)) (fun s => (s.words, s.outcome)) = some ([], .none) := by decide

end Sys2Proof.Tests
end

section
/-! SUPPORT. The host's accesses as rules: what a register write leaves behind, what each register number reads as, and
which state a step with a given access first in the list answers (10_state.md R21 to R38). -/

namespace Sys2Proof.Machine

/-! ### Registers -/

/-- A register write sets the writable register of its number (CTRL, NBYTES, CURSOR, NOMINAL, MAX_ROWS) and no other
field (R21, R25 to R29, R37). -/
theorem writeReg_eq (s : State) (reg : RegNum) (v : Reg32) :
    writeReg s reg v =
      { s with
        remapEn := if reg.toNat = 0x03 then remapEnOf v else s.remapEn
        nbytes := if reg.toNat = 0x04 then v else s.nbytes
        cursor := if reg.toNat = 0x06 then v else s.cursor
        nominal := if reg.toNat = 0x07 then v else s.nominal
        maxRows := if reg.toNat = 0x08 then v else s.maxRows } := by
  unfold writeReg State.moveCursor
  split <;> simp_all

/-- A write to a register leaves what every other number reads as (R21). -/
theorem readReg_writeReg_other (s : State) {reg r : RegNum} (v : Reg32) (h : r ≠ reg) :
    readReg (writeReg s reg v) r = readReg s r := by
  have hn : reg.toNat ≠ r.toNat := fun he => h (BitVec.eq_of_toNat_eq he).symm
  rw [writeReg_eq]
  unfold readReg
  split <;> simp_all

/-- CTRL keeps bit 0 of the value written (R25). -/
theorem ctrlReg_remapEnOf (v : Reg32) : ctrlReg (remapEnOf v) = v &&& 1#32 := by
  apply BitVec.eq_of_toNat_eq
  simp only [ctrlReg, remapEnOf, BitVec.toNat_ofNat, BitVec.toNat_and, BitVec.getLsbD, Nat.testBit_zero,
    Nat.and_one_is_mod, Nat.reducePow, Nat.reduceMod]
  rcases Nat.mod_two_eq_zero_or_one v.toNat with h | h <;> simp [h]

/-- What a register reads as after a write to it: the value where it is writable, bit 0 for CTRL, else what it read as
before (R21, R25, R27 to R29, R37). -/
theorem readReg_writeReg_same (s : State) (reg : RegNum) (v : Reg32) :
    readReg (writeReg s reg v) reg =
      if reg.toNat ∈ [4, 6, 7, 8] then v else if reg = 0x03#8 then v &&& 1#32 else readReg s reg := by
  have h3 : reg = 0x03#8 ↔ reg.toNat = 3 := by simp [← BitVec.toNat_inj]
  rw [writeReg_eq]
  simp only [h3]
  unfold readReg
  split <;> simp_all [ctrlReg_remapEnOf]

/-- Taking a request off the list changes no register. -/
@[simp] theorem readReg_take (s : State) (rest : List Request) (r : RegNum) :
    readReg (s.take rest) r = readReg s r := rfl

/-- A reserved number reads 0 (R37). -/
theorem readReg_reserved (s : State) {reg : RegNum} (h : 0x0F ≤ reg.toNat) : readReg s reg = 0#32 := by
  unfold readReg
  split <;> simp_all

/-- A write to a reserved number is ignored (R37). -/
theorem writeReg_reserved (s : State) {reg : RegNum} (v : Reg32) (h : 0x0F ≤ reg.toNat) : writeReg s reg v = s := by
  unfold writeReg
  split <;> simp_all

/-! ### The step that serves one access -/

section
variable {s : State} {rest : List Request}

theorem step_rd {reg : RegNum} (h : s.pending = .access (.rd reg) :: rest) :
    step s = .next ((s.take rest).returnRead (readReg s reg)) := step_cons h

theorem step_wr {reg : RegNum} {v : Reg32} (h : s.pending = .access (.wr reg v) :: rest) (hreg : reg ≠ regCmd) :
    step s = .next (writeReg (s.take rest) reg v) := by
  rw [step_cons h, serve, serveAccess, if_neg hreg]

theorem step_wrm {space : Space} {i : Nat} {v : Byte} (h : s.pending = .access (.wrm space i v) :: rest)
    (hin : inSpace space i = true) : step s = .next (writeElem (s.take rest) space i v) := by
  rw [step_cons h, serve, serveAccess, serveWriteElem, if_pos hin]

theorem step_rdm {space : Space} {i : Nat} (h : s.pending = .access (.rdm space i) :: rest)
    (hin : inSpace space i = true) :
    step s = .next ((s.take rest).returnRead (readElem (s.take rest) space i)) := by
  rw [step_cons h, serve, serveAccess, serveReadElem, if_pos hin]

/-- The step of an element read whose value is known. -/
theorem step_rdm_value {space : Space} {i : Nat} {v : Reg32} (h : s.pending = .access (.rdm space i) :: rest)
    (hin : inSpace space i = true) (hv : readElem (s.take rest) space i = v) :
    step s = .next ((s.take rest).returnRead v) := hv ▸ step_rdm h hin

theorem step_rdm_outside {space : Space} {i : Nat} (h : s.pending = .access (.rdm space i) :: rest)
    (hout : inSpace space i = false) : step s = .refused (.outsideArray space i) := by
  rw [step_cons h, serve, serveAccess, serveReadElem, if_neg (by simp [hout])]

theorem step_wrm_outside {space : Space} {i : Nat} {v : Byte} (h : s.pending = .access (.wrm space i v) :: rest)
    (hout : inSpace space i = false) : step s = .refused (.outsideArray space i) := by
  rw [step_cons h, serve, serveAccess, serveWriteElem, if_neg (by simp [hout])]

end

/-! ### Elements the arrays hold -/

/-- A written element of BYTEBUF. -/
theorem State.byteAt_of_read {s : State} {j : Nat} {v : Byte} (h : Memory.read s.bytebuf j = some v) :
    s.byteAt j = v := by simp [State.byteAt, h]

/-- A written element of PERM. -/
theorem State.permAt_of_read {s : State} {e : Nat} {v : Byte} (h : Memory.read s.perm e = some v) :
    s.permAt e = v := by simp [State.permAt, h]

/-- A held entry of PERM_ACT. -/
theorem State.permActAt_of_lt (s : State) (e : Nat) (h : e < s.permAct.length) : s.permActAt e = s.permAct[e] := by
  simp [State.permActAt, h]

/-- A held cell of BLOCK: element `128 * r + c` is row r, column c (R8, R36). -/
theorem State.cellAt_of_lt (s : State) {r c : Nat} (hr : r < s.block.length) (hc : c < (s.block[r]).length)
    (h128 : c < 128) : s.cellAt (128 * r + c) = (s.block[r])[c] := by
  have hdiv : (128 * r + c) / 128 = r := by omega
  have hmod : (128 * r + c) % 128 = c := by omega
  simp [State.cellAt, hdiv, hmod, hr, hc]

/-! ### Fields of STATUS, OUTCOME, CTRL and LINKSTAT -/

/-- Bits above a small value are 0. -/
theorem getLsbD_of_toNat_lt {w k n : Nat} {x : BitVec w} (hx : x.toNat < 2 ^ k) (hn : k ≤ n) : x.getLsbD n = false :=
  Nat.testBit_lt_two_pow (Nat.lt_of_lt_of_le hx (Nat.pow_le_pow_right (by decide) hn))

/-- STATUS, bit by bit (R23). -/
theorem Status.toReg_getLsbD (f : Status) (n : Nat) :
    f.toReg.getLsbD n =
      ((decide (n = 0) && f.configured) || (decide (n = 1) && f.fatal) || (decide (n = 2) && f.done)) := by
  obtain ⟨c, f, d⟩ := f
  match n with
  | 0 => revert c f d; decide
  | 1 => revert c f d; decide
  | 2 => revert c f d; decide
  | n + 3 =>
    have hlt : (Status.toReg ⟨c, f, d⟩).toNat < 2 ^ 3 := by revert c f d; decide
    simp [getLsbD_of_toNat_lt hlt (by omega : 3 ≤ n + 3)]

/-- CTRL, bit by bit (R25). -/
theorem ctrlReg_getLsbD (b : Bool) (n : Nat) : (ctrlReg b).getLsbD n = (decide (n = 0) && b) := by
  match n with
  | 0 => revert b; decide
  | n + 1 =>
    have hlt : (ctrlReg b).toNat < 2 ^ 1 := by revert b; decide
    simp [getLsbD_of_toNat_lt hlt (by omega : 1 ≤ n + 1)]

theorem OutcomeCode.toNat_lt (o : OutcomeCode) : o.toNat < 7 := by cases o <;> decide

/-- OUTCOME reads as the number of its code (R24, R84). -/
theorem OutcomeCode.toReg_toNat (o : OutcomeCode) : o.toReg.toNat = o.toNat := by cases o <;> rfl

theorem LinkStat.toNat_lt (l : LinkStat) : l.toNat < 3 := by cases l <;> decide

/-- LINKSTAT as a number: two bits for each link (R31). -/
theorem linkStatReg_toNat (p : PerLink LinkStat) :
    (linkStatReg p).toNat = p.l0.toNat + 4 * p.l1.toNat + 16 * p.l2.toNat + 64 * p.l3.toNat := by
  have h0 := p.l0.toNat_lt
  have h1 := p.l1.toNat_lt
  have h2 := p.l2.toNat_lt
  have h3 := p.l3.toNat_lt
  rw [linkStatReg, BitVec.toNat_ofNat]
  omega

theorem linkStatReg_lt (p : PerLink LinkStat) : (linkStatReg p).toNat < 256 := by
  have h0 := p.l0.toNat_lt
  have h1 := p.l1.toNat_lt
  have h2 := p.l2.toNat_lt
  have h3 := p.l3.toNat_lt
  rw [linkStatReg_toNat]
  omega

/-- The code of link i stands in bits 2i+1:2i of LINKSTAT (R31). -/
theorem linkStatReg_field (p : PerLink LinkStat) (i : Fin 4) :
    (linkStatReg p).toNat / 4 ^ i.val % 4 = (p.get i).toNat := by
  have h0 := p.l0.toNat_lt
  have h1 := p.l1.toNat_lt
  have h2 := p.l2.toNat_lt
  have h3 := p.l3.toNat_lt
  rw [linkStatReg_toNat]
  match i with
  | 0 => show _ / 1 % 4 = p.l0.toNat; omega
  | 1 => show _ / 4 % 4 = p.l1.toNat; omega
  | 2 => show _ / 16 % 4 = p.l2.toNat; omega
  | 3 => show _ / 64 % 4 = p.l3.toNat; omega

end Sys2Proof.Machine
end

section
/-! SUPPORT. The decoder of CMD (R22, R82, R83): which low byte selects which command, and that a unit frame never
stands for a command. -/

namespace Sys2Proof.Machine

/-- The decoder reads bits 7:0 of a CMD value and nothing else (R22). -/
theorem decodeCmd_of_low_byte (v : Reg32) :
    (v.toNat % 256 = 0 ∧ decodeCmd v = .instr .nop) ∨
    (v.toNat % 256 = 1 ∧ decodeCmd v = .instr .configure) ∨
    (v.toNat % 256 = 2 ∧ decodeCmd v = .instr .decode) ∨
    (v.toNat % 256 = 3 ∧ decodeCmd v = .instr .poll) ∨
    (4 ≤ v.toNat % 256 ∧ decodeCmd v = .reserved (BitVec.ofNat 8 v.toNat)) := by
  have hbyte : BitVec.ofNat 8 (v.toNat % 256) = BitVec.ofNat 8 v.toNat := by
    apply BitVec.eq_of_toNat_eq
    simp
  unfold decodeCmd
  split
  · next h => exact .inl ⟨h, rfl⟩
  · next h => exact .inr (.inl ⟨h, rfl⟩)
  · next h => exact .inr (.inr (.inl ⟨h, rfl⟩))
  · next h => exact .inr (.inr (.inr (.inl ⟨h, rfl⟩)))
  · next c h0 h1 h2 h3 =>
      simp only [imp_false] at h0 h1 h2 h3
      exact .inr (.inr (.inr (.inr ⟨by omega, by rw [hbyte]⟩)))

/-- A unit frame never stands for a host command (R6, R82). -/
theorem isCommand_of_decodeUnit {f : UnitFrame} {i : Instr} (h : decodeUnit f = .instr i) : isCommand i = false := by
  unfold decodeUnit at h
  split at h <;> (try split at h) <;> (try split at h) <;> cases h <;> rfl

end Sys2Proof.Machine
end

section
/-! The obligations on the step, the decoder and the host's accesses. -/

namespace Sys2Proof.Machine

/-- Settles O1: an encoded command arrives as a write to CMD, an encoded unit operation as its frame, and both are
served by the decoder's answer. -/
theorem stepRunsDecodedInstruction : Obligations.StepRunsDecodedInstruction := by
  refine ⟨fun s h => by simp only [step, h], fun s e rest i hp hd hw => ⟨?_, rfl⟩⟩
  rw [step_cons hp]
  cases e with
  | cmd v => simp only [requestOf, serve, serveAccess, runCmd, hd, if_true]
  | unit f => simp only [requestOf, serve, runUnit, hd, hw, if_true]

/-- Settles O4, from the decoder's answer on each low byte. -/
theorem commandCodeIsLowByte : Obligations.CommandCodeIsLowByte := by
  refine ⟨fun v => ?_, fun v => ?_, fun v => ?_, fun v => ?_, fun v hv => ?_⟩ <;>
    rcases decodeCmd_of_low_byte v with ⟨hn, hd⟩ | ⟨hn, hd⟩ | ⟨hn, hd⟩ | ⟨hn, hd⟩ | ⟨hn, hd⟩ <;>
    simp [hd] <;> omega

/-- Settles O5: the step of a read, and the register of each number. -/
theorem registerReadReturnsItsRegister : Obligations.RegisterReadReturnsItsRegister := by
  intro s reg rest hp
  exact ⟨step_rd hp, rfl, rfl, rfl, rfl, rfl, rfl, rfl, rfl, rfl, rfl, rfl, rfl, rfl, rfl, rfl⟩

/-- Settles O6, field by field. -/
theorem fieldsReadAtTheirBits : Obligations.FieldsReadAtTheirBits := by
  intro s
  have houtcome : (readReg s 0x02#8).toNat = s.outcome.toNat := s.outcome.toReg_toNat
  have hlink : ∀ i : Fin 4, (readReg s 0x0E#8).toNat / 4 ^ i.val % 4 = (s.linkStat.get i).toNat :=
    linkStatReg_field s.linkStat
  refine ⟨s.status.toReg_getLsbD, ?_, houtcome, s.outcome.toNat_lt, ctrlReg_getLsbD s.remapEn, fun i => ?_, hlink,
    linkStatReg_lt s.linkStat⟩
  · rw [houtcome]; cases s.outcome <;> rfl
  · rw [hlink]; cases s.linkStat.get i <;> rfl

/-- Settles O7, from the two rules of reading after a register write. -/
theorem registerWriteReadsBack : Obligations.RegisterWriteReadsBack := by
  intro s reg v rest hp hreg
  refine ⟨_, step_wr hp hreg, readReg_writeReg_same _ _ _, fun r hr => readReg_writeReg_other _ _ hr, ?_⟩
  rw [writeReg_eq]
  exact ⟨rfl, rfl, rfl, rfl, rfl, rfl, rfl⟩

/-- Settles O8: both rules of reserved numbers, at a number that is not CMD's. -/
theorem reservedRegistersAreInert : Obligations.ReservedRegistersAreInert := by
  intro s reg v rest hreg
  refine ⟨fun hp => ?_, fun hp => ?_⟩
  · rw [step_rd hp, readReg_reserved s hreg]; rfl
  · have hcmd : reg ≠ regCmd := by rintro rfl; exact absurd hreg (by decide)
    rw [step_wr hp hcmd, writeReg_reserved _ v hreg]; rfl

/-- Settles O9, from the laws of the cell lists. -/
theorem elementWriteReadsBack : Obligations.ElementWriteReadsBack := by
  intro s i v rest
  refine ⟨fun hp hi => ?_, fun hp hi => ?_⟩
  · exact ⟨_, step_wrm hp (decide_eq_true hi), State.byteAt_of_read (Memory.read_write_same _ _ _),
      fun j hj => Memory.read_write_other _ _ _ _ hj, rfl⟩
  · exact ⟨_, step_wrm hp (decide_eq_true hi), State.permAt_of_read (Memory.read_write_same _ _ _),
      fun j hj => Memory.read_write_other _ _ _ _ hj, rfl⟩

/-- Settles O10: the three read-only arrays ignore the write. -/
theorem readOnlyArraysIgnoreWrites : Obligations.ReadOnlyArraysIgnoreWrites := by
  intro s space i v rest hp hspace hin
  rw [step_wrm hp hin]
  rcases hspace with rfl | rfl | rfl <;> rfl

/-- Settles O11: an index at or above its array's capacity is outside; BLOCK has none. -/
theorem outsideArrayIsRefused : Obligations.OutsideArrayIsRefused := by
  refine ⟨fun s space i v rest hspace => ?_, fun s i rest hp => ⟨_, step_rdm hp rfl⟩⟩
  have hout : inSpace space i = false := by
    rcases hspace with ⟨rfl, h⟩ | ⟨rfl, h⟩ | ⟨rfl, h⟩ | ⟨rfl, h⟩ <;> simpa [inSpace] using h
  exact ⟨fun hp => step_rdm_outside hp hout, fun hp => step_wrm_outside hp hout⟩

/-- Settles O12, one array at a time: the element is inside, and what the array holds there is what is read. -/
theorem elementReadReturnsElement : Obligations.ElementReadReturnsElement := by
  intro s rest answers
  exact ⟨
    fun j v hv hj hp => step_rdm_value hp (decide_eq_true hj) (congrArg (BitVec.setWidth 32) (State.byteAt_of_read hv)),
    fun e v hv he hp => step_rdm_value hp (decide_eq_true he) (congrArg (BitVec.setWidth 32) (State.permAt_of_read hv)),
    fun k h hk hp => step_rdm_value hp (decide_eq_true hk)
      (congrArg (BitVec.setWidth 32) ((s.take rest).wordAt_of_lt k h)),
    fun e h he hp => step_rdm_value hp (decide_eq_true he)
      (congrArg (BitVec.setWidth 32) ((s.take rest).permActAt_of_lt e h)),
    fun r c hr hc h128 hp => step_rdm_value hp rfl
      (congrArg (BitVec.setWidth 32) ((s.take rest).cellAt_of_lt hr hc h128))⟩

/-- Settles O13: register numbers up to 0x0E by evaluation, the others as reserved. -/
theorem registersReadZeroAfterReset : Obligations.RegistersReadZeroAfterReset := by
  refine ⟨fun reg => ?_, rfl, rfl, rfl, rfl, rfl, rfl, rfl, PerLink.const_get []⟩
  unfold readReg
  split <;> rfl

end Sys2Proof.Machine
end

section
/-! SUPPORT. The blocks a decode delivers (R36, R79, R150, R161): a verified table names every column, so that each
cell of a remapped row is a sample or the fill, and the four links bound the row count. -/

namespace Sys2Proof.Machine

/-! ### ASSEMBLE and REMAP give rows of 128 cells in 0 to 4095 -/

/-- The four links of a trigger hold rows of 32 values. -/
def rowsOk (rows : PerLink (List SampleRow)) : Prop := ∀ i : Fin 4, ∀ row ∈ rows.get i, row.length = 32

/-- A row of ASSEMBLE: four quadrants of 32 samples or fills (R150, R151). -/
theorem assemble_blockRowOk {rows : PerLink (List SampleRow)} (h : rowsOk rows) :
    ∀ row ∈ assemble rows, blockRowOk row := by
  intro row hrow
  obtain ⟨r, -, rfl⟩ := List.mem_map.1 hrow
  refine ⟨?_, fun v hv => ?_⟩
  · have h0 : (quadrant rows.l0 r).length = 32 := quadrant_length (h 0) r
    have h1 : (quadrant rows.l1 r).length = 32 := quadrant_length (h 1) r
    have h2 : (quadrant rows.l2 r).length = 32 := quadrant_length (h 2) r
    have h3 : (quadrant rows.l3 r).length = 32 := quadrant_length (h 3) r
    simp only [List.length_append, h0, h1, h2, h3]
  · simp only [List.mem_append] at hv
    rcases hv with ((hv | hv) | hv) | hv
    · exact quadrant_le hv
    · exact quadrant_le hv
    · exact quadrant_le hv
    · exact quadrant_le hv

/-- A table of 128 distinct values in 1 to 128 has every one of them as an entry (R160, R161 (a)). -/
theorem verifiedTable_surjective {t : List Byte} (h : verifiedTable t) {c : Nat} (hc : c < 128) :
    ∃ (e : Nat) (he : e < t.length), t[e].toNat = c + 1 := by
  obtain ⟨hlen, hv⟩ := h
  obtain ⟨hrange, hnodup⟩ := (verifyTable_iff t).1 hv
  have hsub : (t.map BitVec.toNat).toFinset ⊆ Finset.Icc 1 128 := by
    intro x hx
    obtain ⟨p, hp, rfl⟩ := List.mem_map.1 (List.mem_toFinset.1 hx)
    exact Finset.mem_Icc.2 (hrange p hp)
  have hcard : (Finset.Icc 1 128).card ≤ (t.map BitVec.toNat).toFinset.card := by
    rw [List.toFinset_card_of_nodup hnodup, List.length_map, hlen, Nat.card_Icc]
  have hmem : c + 1 ∈ (t.map BitVec.toNat).toFinset := by
    rw [Finset.eq_of_subset_of_card_le hsub hcard, Finset.mem_Icc]
    omega
  obtain ⟨p, hp, hpc⟩ := List.mem_map.1 (List.mem_toFinset.1 hmem)
  obtain ⟨e, he, rfl⟩ := List.mem_iff_getElem.1 hp
  exact ⟨e, he, hpc⟩

/-- In a verified table every column is the physical column of some electronics column (R161). -/
theorem State.exists_physicalColumn {s : State} (h : verifiedTable s.permAct) {c : Nat} (hc : c < 128) :
    ∃ e < 128, physicalColumn (s.permActAt e) = some c := by
  obtain ⟨e, he, hp⟩ := verifiedTable_surjective h hc
  refine ⟨e, h.1 ▸ he, ?_⟩
  rw [s.permActAt_of_lt e he, physicalColumn, hp]

/-- REMAP with a verified table fills all 128 columns from the row it is given (R161). -/
theorem State.remapRow_blockRowOk {s : State} (ht : verifiedTable s.permAct) {init row : BlockRow}
    (hinit : init.length = 128) (hrow : blockRowOk row) : blockRowOk (remapRow s.permActAt init row) := by
  refine ⟨by rw [remapRow_length, hinit], fun v hv => ?_⟩
  obtain ⟨c, hc, rfl⟩ := List.mem_iff_getElem.1 hv
  rw [remapRow_length] at hc
  rcases moveColumns_getElem? (t := s.permActAt) (row := row) (List.range 128) init c hc with
    ⟨hnone, -⟩ | ⟨e, -, -, hcell⟩
  · obtain ⟨e, he, hp⟩ := s.exists_physicalColumn ht (hinit ▸ hc)
    exact absurd hp (hnone e (List.mem_range.2 he))
  · have hget : (remapRow s.permActAt init row)[c]'(by rwa [remapRow_length]) = row.getD e Config.fill :=
      (List.getElem_eq_iff _).2 hcell
    rw [hget, List.getD_eq_getElem?_getD]
    cases hr : row[e]? with
    | none => decide
    | some x => exact hrow.2 x (List.mem_of_getElem? hr)

/-- REMAP with a verified table keeps the shape of a block (R161). -/
theorem State.remapBlock_blockRowOk {s : State} (ht : verifiedTable s.permAct) {blk : List BlockRow}
    (h : ∀ row ∈ blk, blockRowOk row) : ∀ row ∈ s.remapBlock blk, blockRowOk row := by
  intro row hrow
  obtain ⟨r, hr, rfl⟩ := List.mem_iff_getElem.1 hrow
  rw [State.remapBlock_length] at hr
  rw [s.remapBlock_getElem blk r hr]
  exact s.remapRow_blockRowOk ht (freeRow_length _ _) (h _ (List.getElem_mem hr))

/-! ### The values per link of a decode -/

/-- The value of link i: that of the i-th finished link, or the rest value (R30, R31). -/
theorem perLinkOf_get {α : Type} (f : LinkResult → α) (rest : α) (done : List LinkResult) (i : Fin 4) :
    (perLinkOf f rest done).get i = (done[i.val]?.map f).getD rest := by
  match i with
  | 0 => rfl
  | 1 => rfl
  | 2 => rfl
  | 3 => rfl

/-- A finished link never has the code NOT_RUN (R31, R172). -/
theorem linkStatOf_ne_notRun (r : LinkResult) : linkStatOf r ≠ .notRun := by
  unfold linkStatOf
  split <;> exact LinkStat.noConfusion

/-- A link that is NOT_RUN did not finish, so its LINK_ROWS is 0 (R30, R31, R172). -/
theorem perLinkOf_rows_of_notRun {done : List LinkResult} {i : Fin 4}
    (h : (perLinkOf linkStatOf .notRun done).get i = .notRun) :
    (perLinkOf linkRowsOf 0#32 done).get i = 0#32 := by
  rw [perLinkOf_get] at h ⊢
  cases hd : done[i.val]? with
  | none => rfl
  | some r => rw [hd] at h; exact absurd h (linkStatOf_ne_notRun r)

/-- Every row UNPACK_LINK cuts has 32 values, and an unfinished link has no row (R139, R172). -/
theorem rowsOfLinks_ok (done : List LinkResult) : rowsOk (rowsOfLinks done) := by
  intro i row hrow
  rw [rowsOfLinks, perLinkOf_get] at hrow
  cases hd : done[i.val]? with
  | none => rw [hd] at hrow; cases hrow
  | some r => rw [hd] at hrow; exact unpackLink_row_length hrow

/-- The row bound of MAX_ROWS holds for each link of a trigger (R122, R126). -/
theorem rowsOfLinks_length_le {s : State} {done : List LinkResult} (h : ∀ r ∈ done, FinishedLink s r) (i : Fin 4) :
    ((rowsOfLinks done).get i).length ≤ s.maxRows.toNat := by
  rw [rowsOfLinks, perLinkOf_get]
  cases hd : done[i.val]? with
  | none => exact Nat.zero_le _
  | some r => simpa using (h r (List.mem_of_getElem? hd)).2

/-! ### The block of a trigger -/

/-- Each row of a delivered block is 128 cells in 0 to 4095, with REMAP or without (R36, R172). -/
theorem State.triggerBlock_blockRowOk {s : State} (ht : verifiedTable s.permAct) (done : List LinkResult) :
    ∀ row ∈ s.triggerBlock done, blockRowOk row := by
  have hblk := assemble_blockRowOk (rowsOfLinks_ok done)
  unfold State.triggerBlock
  split
  · exact s.remapBlock_blockRowOk ht hblk
  · exact hblk

/-- A delivered block has no more rows than MAX_ROWS, so that NROWS holds its row count (R30, R126). -/
theorem State.triggerBlock_length_le {s : State} {done : List LinkResult} (h : ∀ r ∈ done, FinishedLink s r) :
    (s.triggerBlock done).length ≤ s.maxRows.toNat := by
  have hlen : (s.triggerBlock done).length = blockRows (rowsOfLinks done) := by
    unfold State.triggerBlock
    split <;> simp
  rw [hlen, blockRows]
  exact max_le (max_le (rowsOfLinks_length_le h 0) (rowsOfLinks_length_le h 1))
    (max_le (rowsOfLinks_length_le h 2) (rowsOfLinks_length_le h 3))

end Sys2Proof.Machine
end

section
/-! SUPPORT. The invariant through every update of the state, in the order of Machine/Ops.lean, then through the
commands, the requests and a step. -/

namespace Sys2Proof.Machine

/-- The invariant holds of the state of `State.reset`, whatever the model keeps beside the block (R41, R220). -/
theorem State.externalReset_inv (s : State) : Inv s.externalReset where
  bytebufCanonical := Memory.wf_reset.1
  permCanonical := Memory.wf_reset.2
  bytebufInside := fun _ hc => nomatch hc
  permInside := fun _ hc => nomatch hc
  wordsLength := rfl
  wordsBound := Nat.zero_le _
  tableVerified := fun h => nomatch h
  unconfigured := fun _ => ⟨rfl, rfl, rfl, rfl⟩
  blockLength := rfl
  blockShape := fun _ hrow => nomatch hrow
  blockOutcome := fun h => absurd rfl h
  fatalNoBlock := fun _ => rfl
  linkNotRun := fun i _ => PerLink.const_get 0#32 i

section
variable {s : State}

/-! ### Updates of fields that the invariant does not speak of -/

theorem Inv.take (h : Inv s) (rest : List Request) : Inv (s.take rest) := { h with }

theorem Inv.returnRead (h : Inv s) (v : Reg32) : Inv (s.returnRead v) := { h with }

theorem Inv.setWork (h : Inv s) (w : Work) : Inv (s.setWork w) := { h with }

theorem Inv.writeReg (h : Inv s) (reg : RegNum) (v : Reg32) : Inv (writeReg s reg v) := by
  rw [writeReg_eq]
  exact { h with }

/-! ### Element writes -/

/-- A write inside its array puts no cell outside it (R38). -/
theorem Inv.writeElem (h : Inv s) {space : Space} {i : Nat} {v : Byte} (hin : inSpace space i = true) :
    Inv (writeElem s space i v) := by
  obtain ⟨hb, hp⟩ := writeElem_wf s space i v ⟨h.bytebufCanonical, h.permCanonical⟩
  cases space with
  | bytebuf =>
    refine { h with bytebufCanonical := hb, bytebufInside := fun c hc => ?_ }
    rcases Memory.mem_write hc with rfl | hc
    · exact of_decide_eq_true hin
    · exact h.bytebufInside c hc
  | perm =>
    refine { h with permCanonical := hp, permInside := fun c hc => ?_ }
    rcases Memory.mem_write hc with rfl | hc
    · exact of_decide_eq_true hin
    · exact h.permInside c hc
  | words => exact h
  | permAct => exact h
  | block => exact h

/-! ### OUTCOME and the flags -/

/-- An outcome may be set where it does not stand beside a block it excludes (R30). -/
theorem Inv.setOutcome (h : Inv s) {x : OutcomeCode} (hx : s.nrows ≠ 0#32 → x = .block ∨ x = .none) :
    Inv (s.setOutcome x) := { h with blockOutcome := hx }

/-- DONE may be set on a configured core (R175). -/
theorem Inv.setDone (h : Inv s) (hc : s.status.configured = true) : Inv s.setDone :=
  { h with unconfigured := fun hn => absurd (hc.symm.trans hn) nofun }

theorem Inv.markEnd (h : Inv s) (hc : s.status.configured = true) : Inv s.markEnd := by
  rcases s.markEnd_eq with he | ⟨-, he⟩
  · rwa [he]
  · rw [he]; exact h.setDone hc

/-! ### CONFIGURE -/

/-- The soft reset of CONFIGURE leaves what an unconfigured core may hold (R171, R221). -/
theorem Inv.softReset (h : Inv s) : Inv s.softReset where
  bytebufCanonical := h.bytebufCanonical
  permCanonical := h.permCanonical
  bytebufInside := h.bytebufInside
  permInside := h.permInside
  wordsLength := rfl
  wordsBound := Nat.zero_le _
  tableVerified := fun hc => nomatch hc
  unconfigured := fun _ => ⟨rfl, rfl, rfl, rfl⟩
  blockLength := rfl
  blockShape := fun _ hrow => nomatch hrow
  blockOutcome := fun hn => absurd rfl hn
  fatalNoBlock := fun _ => rfl
  linkNotRun := fun i _ => PerLink.const_get 0#32 i

/-- Installing a stream that NWORDS can count and a verified table, on a core with no block (R171). -/
theorem Inv.install (h : Inv s) {ws : List Word} {table : List Byte} (hws : ws.length ≤ maxWords)
    (ht : verifiedTable table) (hn : s.nrows = 0#32) : Inv (s.install ws table) := by
  have hlen : (BitVec.ofNat 32 ws.length).toNat = ws.length := by
    rw [BitVec.toNat_ofNat]
    unfold maxWords at hws
    omega
  exact { h with
    wordsLength := hlen.symm
    wordsBound := hlen.symm ▸ hws
    tableVerified := fun _ => ht
    unconfigured := fun hc => nomatch hc
    blockOutcome := fun _ => .inr rfl
    fatalNoBlock := fun _ => hn }

/-- CONFIGURE keeps the invariant: half of a 32-bit NBYTES fits in NWORDS, and the table it copies passed (R26, R171). -/
theorem Inv.configureWith (h : Inv s) (cap : Nat) : Inv (configureWith cap s) := by
  rcases configureWith_cases cap s with ⟨-, he⟩ | ⟨-, -, hv, he⟩
  · rw [he]
    exact h.softReset.setOutcome fun hn => absurd rfl hn
  · rw [he]
    refine h.softReset.install ?_ ⟨s.permTable_length, hv⟩ rfl
    have hbytes := s.nbytes.isLt
    rw [wordStream_length, maxWords]
    omega

/-! ### DECODE and POLL -/

/-- The diagnostics of a decode leave no block (R172). -/
theorem Inv.noteLinks (h : Inv s) (done : List LinkResult) : Inv (s.noteLinks done) :=
  { h with
    unconfigured := fun hc => ⟨(h.unconfigured hc).1, rfl, (h.unconfigured hc).2.2⟩
    blockLength := rfl
    blockShape := fun _ hrow => nomatch hrow
    blockOutcome := fun hn => absurd rfl hn
    fatalNoBlock := fun _ => rfl
    linkNotRun := fun _ hi => perLinkOf_rows_of_notRun hi }

/-- An error outcome of a configured core leaves no block (R199). -/
theorem Inv.raise (h : Inv s) (hc : s.status.configured = true) (x : OutcomeCode) (p : Nat) : Inv (s.raise x p) :=
  { h with
    unconfigured := fun hn => absurd (hc.symm.trans hn) nofun
    blockLength := rfl
    blockShape := fun _ hrow => nomatch hrow
    blockOutcome := fun hn => absurd rfl hn
    fatalNoBlock := fun _ => rfl }

/-- A block that NROWS can count is delivered on a core that is ready (R172). -/
theorem Inv.deliver (h : Inv s) (hs : readyToDecode s) {blk : List BlockRow} (p : Nat) (hlen : blk.length < 2 ^ 32)
    (hblk : ∀ row ∈ blk, blockRowOk row) : Inv (s.deliver blk p) :=
  { h with
    unconfigured := fun hn => absurd (hs.1.symm.trans hn) nofun
    blockLength := (Nat.mod_eq_of_lt hlen).symm
    blockShape := hblk
    blockOutcome := fun _ => .inl rfl
    fatalNoBlock := fun hf => absurd (hs.2.symm.trans hf) nofun }

/-- DECODE_BODY on a core that is ready keeps the invariant, whichever way it ends (R172, R173). -/
theorem Inv.decodeBody (h : Inv s) (hs : readyToDecode s) : Inv (decodeBody s) := by
  rcases decodeBody_cases s with ⟨-, he⟩ | ⟨-, x, p, done, he, -⟩ | ⟨-, p, done, he, -, -, -, -, hdone⟩
  · rw [he]
    exact (h.noteLinks []).setOutcome fun hn => absurd rfl hn
  · rw [he]
    exact (h.noteLinks done).raise hs.1 x p
  · rw [he]
    have hlen := State.triggerBlock_length_le hdone
    exact (h.noteLinks done).deliver hs p (Nat.lt_of_le_of_lt hlen s.maxRows.isLt)
      (State.triggerBlock_blockRowOk (h.tableVerified hs.1) done)

/-- A core with FATAL set reports EXCEEDED_MAX_ROWS again; it holds no block (R194). -/
theorem Inv.setOutcome_of_fatal (h : Inv s) (hf : s.status.fatal = true) (x : OutcomeCode) : Inv (s.setOutcome x) :=
  h.setOutcome fun hn => absurd (h.fatalNoBlock hf) hn

theorem Inv.execDecode {t : State} (h : Inv s) (he : execDecode s = .next t) : Inv t := by
  rcases execDecode_cases s with ⟨-, hd⟩ | ⟨-, hf, hd⟩ | ⟨hc, hf, hd⟩ <;> rw [hd] at he <;> cases he
  · exact h.setOutcome fun _ => .inr rfl
  · exact h.setOutcome_of_fatal hf _
  · exact h.decodeBody ⟨hc, hf⟩

end

/-! ### What the commands keep of STATUS -/

/-- DECODE_BODY keeps the stream, the active table, CONFIGURED and DONE, and never clears FATAL (R172, R194). -/
structure BodyKeeps (s t : State) : Prop where
  words : t.words = s.words
  nwords : t.nwords = s.nwords
  permAct : t.permAct = s.permAct
  configured : t.status.configured = s.status.configured
  fatal : s.status.fatal = true → t.status.fatal = true
  done : s.status.done = true → t.status.done = true

theorem decodeBody_keeps (s : State) : BodyKeeps s (decodeBody s) := by
  rcases decodeBody_cases s with ⟨-, he⟩ | ⟨-, x, p, done, he, -⟩ | ⟨-, p, done, he, -⟩
  · rw [he]; exact ⟨rfl, rfl, rfl, rfl, id, id⟩
  · rw [he]; exact ⟨rfl, rfl, rfl, rfl, fun hf => by simp [Status.afterRaise, hf], id⟩
  · rw [he]; exact ⟨rfl, rfl, rfl, rfl, id, id⟩

theorem BodyKeeps.setOutcome (s : State) (x : OutcomeCode) : BodyKeeps s (s.setOutcome x) :=
  ⟨rfl, rfl, rfl, rfl, id, id⟩

theorem BodyKeeps.markEnd {s t : State} (h : BodyKeeps s t) : BodyKeeps s t.markEnd := by
  rcases t.markEnd_eq with he | ⟨-, he⟩
  · rwa [he]
  · rw [he]; exact { h with done := fun _ => rfl }

theorem execDecode_keeps {s t : State} (h : execDecode s = .next t) : BodyKeeps s t := by
  rcases execDecode_cases s with ⟨-, hd⟩ | ⟨-, -, hd⟩ | ⟨-, -, hd⟩ <;> rw [hd] at h <;> cases h
  · exact .setOutcome s _
  · exact .setOutcome s _
  · exact decodeBody_keeps s

theorem execPoll_keeps {s t : State} (h : execPoll s = .next t) : BodyKeeps s t := by
  rcases execPoll_cases s with ⟨-, hd⟩ | ⟨-, -, -, hd⟩ | ⟨-, -, -, hd⟩ <;> rw [hd] at h <;> cases h
  · exact .setOutcome s _
  · exact .setOutcome s _
  · exact (decodeBody_keeps s).markEnd

section
variable {s t : State}

/-- POLL keeps the invariant: DECODE_BODY does, on a core that stays configured, and DONE is set on one (R175). -/
theorem Inv.execPoll (h : Inv s) (he : execPoll s = .next t) : Inv t := by
  rcases execPoll_cases s with ⟨-, hd⟩ | ⟨-, -, hf, hd⟩ | ⟨hc, -, hf, hd⟩ <;> rw [hd] at he <;> cases he
  · exact h.setOutcome fun _ => .inr rfl
  · exact h.setOutcome_of_fatal hf _
  · exact (h.decodeBody ⟨hc, hf⟩).markEnd ((decodeBody_keeps s).configured.trans hc)

/-! ### Operations, requests, steps -/

theorem Inv.exec {i : Instr} (h : Inv s) (he : exec i s = .next t) : Inv t := by
  rcases exec_next_cases he with ⟨-, rfl⟩ | ⟨-, rfl⟩ | ⟨-, hd⟩ | ⟨-, hp⟩ | ⟨-, w, rfl⟩
  · exact h
  · exact h.configureWith _
  · exact h.execDecode hd
  · exact h.execPoll hp
  · exact h.setWork w

theorem Inv.serve {r : Request} (h : Inv s) (he : serve s r = .next t) : Inv t := by
  rcases serve_next_cases he with ⟨i, v, -, -, hi⟩ | ⟨v, -, -, rfl⟩ | ⟨reg, v, -, -, rfl⟩ | ⟨v, -, rfl⟩ |
    ⟨space, i, v, -, hin, rfl⟩ | ⟨-, rfl⟩ | ⟨f, i, -, -, -, hi⟩
  · exact h.exec hi
  · exact h
  · exact h.writeReg reg v
  · exact h.returnRead v
  · exact h.writeElem hin
  · exact s.externalReset_inv
  · exact h.exec hi

theorem Inv.step (h : Inv s) (he : step s = .next t) : Inv t := by
  rcases step_next_cases he with ⟨-, rfl⟩ | ⟨r, rest, -, hr⟩
  · exact h
  · exact (h.take rest).serve hr

end

/-! ### The obligations on the invariant -/

/-- Settles O15: the reset state is what the external reset leaves of it. -/
theorem invariantHoldsAtReset : Obligations.InvariantHoldsAtReset := State.reset.externalReset_inv

/-- Settles O16: every request's effect keeps the invariant. -/
theorem stepKeepsInvariant : Obligations.StepKeepsInvariant := fun _ _ h he => h.step he

end Sys2Proof.Machine
end

section
/-! SUPPORT. What a step changes of the stream, the active table, the flags and OUTCOME, by the request it serves (R33,
R35, R38, R194). -/

namespace Sys2Proof.Machine

/-- `t` has the stream, the active table, the flags and the outcome of `s`. -/
structure CoreKeeps (s t : State) : Prop where
  words : t.words = s.words
  nwords : t.nwords = s.nwords
  permAct : t.permAct = s.permAct
  status : t.status = s.status
  outcome : t.outcome = s.outcome

theorem CoreKeeps.refl (s : State) : CoreKeeps s s := ⟨rfl, rfl, rfl, rfl, rfl⟩

theorem CoreKeeps.writeReg (s : State) (reg : RegNum) (v : Reg32) : CoreKeeps s (writeReg s reg v) := by
  rw [writeReg_eq]
  exact ⟨rfl, rfl, rfl, rfl, rfl⟩

theorem CoreKeeps.writeElem (s : State) (space : Space) (i : Nat) (v : Byte) : CoreKeeps s (writeElem s space i v) := by
  cases space with
  | bytebuf => exact ⟨rfl, rfl, rfl, rfl, rfl⟩
  | words => exact .refl s
  | perm => exact ⟨rfl, rfl, rfl, rfl, rfl⟩
  | permAct => exact .refl s
  | block => exact .refl s

/-- The next request is a write to CMD whose low byte is `code` (R22). -/
def ServesCode (s : State) (code : Nat) : Prop :=
  ∃ v rest, s.pending = .access (.wr regCmd v) :: rest ∧ v.toNat % 256 = code

/-- Serving CONFIGURE, DECODE, POLL, the reset or anything else: what each can change (R38). -/
theorem serve_effect {s t : State} {r : Request} (h : serve s r = .next t) :
    r = .reset ∨
    (∃ v, r = .access (.wr regCmd v) ∧ v.toNat % 256 = 1) ∨
    (∃ v, r = .access (.wr regCmd v) ∧ (v.toNat % 256 = 2 ∨ v.toNat % 256 = 3) ∧ BodyKeeps s t) ∨
    CoreKeeps s t := by
  rcases serve_next_cases h with ⟨i, v, rfl, hi, he⟩ | ⟨v, -, -, rfl⟩ | ⟨reg, v, -, -, rfl⟩ | ⟨v, -, rfl⟩ |
    ⟨space, i, v, -, -, rfl⟩ | ⟨rfl, -⟩ | ⟨f, i, -, hi, -, he⟩
  · rcases decodeCmd_of_low_byte v with ⟨hv, hd⟩ | ⟨hv, hd⟩ | ⟨hv, hd⟩ | ⟨hv, hd⟩ | ⟨-, hd⟩ <;>
      rw [hd] at hi <;> cases hi
    · cases he; exact .inr (.inr (.inr (.refl s)))
    · exact .inr (.inl ⟨v, rfl, hv⟩)
    · exact .inr (.inr (.inl ⟨v, rfl, .inl hv, execDecode_keeps he⟩))
    · exact .inr (.inr (.inl ⟨v, rfl, .inr hv, execPoll_keeps he⟩))
  · exact .inr (.inr (.inr (.refl _)))
  · exact .inr (.inr (.inr (.writeReg s reg v)))
  · exact .inr (.inr (.inr ⟨rfl, rfl, rfl, rfl, rfl⟩))
  · exact .inr (.inr (.inr (.writeElem s space i v)))
  · exact .inl rfl
  · obtain ⟨w, hw⟩ := exec_unit i s (isCommand_of_decodeUnit hi)
    rw [hw] at he
    cases he
    exact .inr (.inr (.inr ⟨rfl, rfl, rfl, rfl, rfl⟩))

/-- What a step can change, by the request at the head of the list. -/
theorem step_effect {s t : State} (h : step s = .next t) :
    (∃ rest, s.pending = .reset :: rest) ∨ ServesCode s 1 ∨
    ((ServesCode s 2 ∨ ServesCode s 3) ∧ BodyKeeps s t) ∨ CoreKeeps s t := by
  rcases step_next_cases h with ⟨-, rfl⟩ | ⟨r, rest, hp, hr⟩
  · exact .inr (.inr (.inr (.refl _)))
  · rcases serve_effect hr with rfl | ⟨v, rfl, hv⟩ | ⟨v, rfl, hv, hk⟩ | hk
    · exact .inl ⟨rest, hp⟩
    · exact .inr (.inl ⟨v, rest, hp, hv⟩)
    · exact .inr (.inr (.inl ⟨hv.imp (⟨v, rest, hp, ·⟩) (⟨v, rest, hp, ·⟩), { hk with }⟩))
    · exact .inr (.inr (.inr { hk with }))

/-! ### The obligations on what changes when -/

/-- Settles O58: a decode, and every request that is no command and no reset, keeps the snapshots. -/
theorem streamChangesOnlyByConfigureOrReset : Obligations.StreamChangesOnlyByConfigureOrReset := by
  intro s t h
  rcases step_effect h with hr | hc | ⟨-, hk⟩ | hk
  · exact .inr (.inr hr)
  · exact .inr (.inl hc)
  · exact .inl ⟨hk.words, hk.nwords, hk.permAct⟩
  · exact .inl ⟨hk.words, hk.nwords, hk.permAct⟩

/-- Settles O59: a decode sets flags and clears none; other requests keep STATUS. -/
theorem flagsStayUntilConfigureOrReset : Obligations.FlagsStayUntilConfigureOrReset := by
  intro s t h
  rcases step_effect h with hr | hc | ⟨-, hk⟩ | hk
  · exact .inr (.inr hr)
  · exact .inr (.inl hc)
  · exact .inl ⟨hk.fatal, hk.done⟩
  · exact .inl ⟨fun hf => hk.status ▸ hf, fun hd => hk.status ▸ hd⟩

/-- Settles O60: what is left beside CONFIGURE, DECODE, POLL and the reset keeps OUTCOME. -/
theorem onlyCommandsChangeOutcome : Obligations.OnlyCommandsChangeOutcome := by
  intro s t h hne
  rcases step_effect h with hr | ⟨v, rest, hp, hv⟩ | ⟨⟨v, rest, hp, hv⟩ | ⟨v, rest, hp, hv⟩, -⟩ | hk
  · exact .inr hr
  · exact .inl ⟨v, rest, hp, .inl hv⟩
  · exact .inl ⟨v, rest, hp, .inr (.inl hv)⟩
  · exact .inl ⟨v, rest, hp, .inr (.inr hv)⟩
  · exact absurd hk.outcome hne

/-- With NOMINAL = 0 no payload is short enough to complete a link, on any pass of the loop (R28, R122 (e)). -/
theorem makeLinkFrom_nominal_zero (W : Nat → Word) (n maxRows fuel : Nat) (buf : List Word) (pos : Nat) :
    (makeLinkFrom W n 0 maxRows fuel buf pos).out ≠ .complete := by
  induction fuel generalizing buf pos with
  | zero => exact LinkOutcome.noConfusion
  | succ fuel ih =>
    rw [makeLinkFrom_succ]
    cases seekNext W n pos with
    | corruptStream => exact LinkOutcome.noConfusion
    | endOfData =>
      dsimp only
      split
      · split <;> exact LinkOutcome.noConfusion
      · exact LinkOutcome.noConfusion
    | packageEnd k =>
      dsimp only
      split
      · exact LinkOutcome.noConfusion
      · rw [if_neg (Nat.not_lt_zero _)]
        exact ih _ k

/-- Settles O28. -/
theorem nominalZeroNeverCompletes : Obligations.NominalZeroNeverCompletes := fun W n maxRows pos =>
  makeLinkFrom_nominal_zero W n maxRows (n + 1) [] pos

/-- A position inside the stream fits in CURSOR (R26, R27). -/
theorem State.toNat_ofNat_of_le_numWords {s : State} {p : Nat} (h : p ≤ s.numWords) :
    (BitVec.ofNat 32 p).toNat = p := by
  have hlt : s.numWords < 2 ^ 32 := s.nwords.isLt
  rw [BitVec.toNat_ofNat]
  omega

/-- DECODE_BODY leaves CURSOR alone or moves it on to a position inside the stream (R27, R172). -/
theorem decodeBody_cursor (s : State) :
    (decodeBody s).cursor = s.cursor ∨
    s.cursor.toNat ≤ (decodeBody s).cursor.toNat ∧ (decodeBody s).cursor.toNat ≤ s.nwords.toNat := by
  rcases decodeBody_cases s with ⟨-, he⟩ | ⟨-, x, p, done, he, -, hlo, hhi, -⟩ | ⟨-, p, done, he, -, hlo, hhi, -⟩
  · rw [he]; exact .inl rfl
  · have hp : p ≤ s.numWords := by omega
    rw [he, State.raise_cursor, State.toNat_ofNat_of_le_numWords hp]
    exact .inr ⟨hlo, hp⟩
  · rw [he, State.deliver_cursor, State.toNat_ofNat_of_le_numWords hhi]
    exact .inr ⟨hlo, hhi⟩

/-- Settles O53: only DECODE_BODY moves CURSOR. -/
theorem cursorMovesForwardInsideStream : Obligations.CursorMovesForwardInsideStream := by
  intro s t h
  have hcursor : t.cursor = s.cursor ∨ s.cursor.toNat ≤ t.cursor.toNat ∧ t.cursor.toNat ≤ s.nwords.toNat := by
    change execDecode s = .next t at h
    rcases execDecode_cases s with ⟨-, hd⟩ | ⟨-, -, hd⟩ | ⟨-, -, hd⟩ <;> rw [hd] at h <;> cases h
    · exact .inl rfl
    · exact .inl rfl
    · exact decodeBody_cursor s
  rcases hcursor with he | ⟨hlo, hhi⟩
  · exact ⟨he ▸ Nat.le_refl _, .inl he⟩
  · exact ⟨hlo, .inr hhi⟩

end Sys2Proof.Machine
end

section
/-! SUPPORT. The decoder on the frames of the encoder (R82; log entry 3), and on a table pattern that stands for an
encoded operation (log entry 6). -/

namespace Sys2Proof.Machine

/-- A row of 25 Words is the operand form of UNPACK_ROW (R137). -/
theorem decodeUnit_unpackRow {row : List Word} (h : row.length = 25) :
    decodeUnit ⟨.unpackRow, [], row⟩ = .instr (.unpackRow row) := by
  simp only [decodeUnit, h, if_true]

/-- A link number below 4 is the operand form of UNPACK_LINK (R139). -/
theorem decodeUnit_unpackLink (i : Fin 4) : decodeUnit ⟨.unpackLink, [i.val], []⟩ = .instr (.unpackLink i) := by
  simp only [decodeUnit, i.isLt, dite_true]

/-- The round trip of the encoding: only UNPACK_ROW needs its operand to be well formed. -/
theorem decode_encode {i : Instr} (hw : wellFormed i = true) : decode (encode i) = .instr i := by
  cases i with
  | nop => rfl
  | configure => rfl
  | decode => rfl
  | poll => rfl
  | readWord idx => rfl
  | field32 k => rfl
  | seekNext pos => rfl
  | append start stop => rfl
  | makeLink pos => rfl
  | rowCount => rfl
  | unpackGroup w0 w1 w2 => rfl
  | unpackRow row => exact decodeUnit_unpackRow (of_decide_eq_true hw)
  | unpackLink link => exact decodeUnit_unpackLink link
  | assemble => rfl
  | verifyTable => rfl
  | remap => rfl

/-- A table pattern decodes to what its request decodes to. -/
theorem decodeTableWord_of_decode {nbits w : Nat} {e : Encoded} {i : Instr} (he : encodedOfBits nbits w = some e)
    (hd : decode e = .instr i) : decodeTableWord nbits w = some i := by
  simp only [decodeTableWord, he, hd]

/-- A table pattern that stands for an encoded operation decodes to that operation. -/
theorem decodeTableWord_of_encode {nbits w : Nat} {i : Instr} (he : encodedOfBits nbits w = some (encode i))
    (hw : wellFormed i = true) : decodeTableWord nbits w = some i :=
  decodeTableWord_of_decode he (decode_encode hw)

end Sys2Proof.Machine
end

section
/-! SUPPORT. The bit law of a group and its inverse (R135, R136); the columns of a row, group by group (R77, R137,
R138); the Words built for a row (R89). -/

namespace Sys2Proof.Machine

/-! ### The bit law and its inverse in numbers (R135, R136) -/

/-- An OR beneath a left shift that loses no bit is a sum. -/
theorem toNat_shiftLeft_or {x y : Word} {k : Nat} (hx : x.toNat * 2 ^ k < 2 ^ 16) (hy : y.toNat < 2 ^ k) :
    (x <<< k ||| y).toNat = x.toNat * 2 ^ k + y.toNat := by
  rw [BitVec.toNat_or, BitVec.toNat_shiftLeft, Nat.shiftLeft_eq, Nat.mod_eq_of_lt hx, ← Nat.shiftLeft_eq,
    Nat.shiftLeft_add_eq_or_of_lt hy]

/-- A mask of the low bits is a remainder. -/
theorem toNat_and_low (x : Word) {k : Nat} {m : Word} (hm : m.toNat = 2 ^ k - 1) :
    (x &&& m).toNat = x.toNat % 2 ^ k := by
  rw [BitVec.toNat_and, hm, Nat.and_two_pow_sub_one_eq_mod]

/-- A mask of the high bits shifted down to bit 0 is a quotient. -/
theorem toNat_and_high_shiftRight (x : Word) {k : Nat} {m : Word} (hm : m.toNat >>> k = 2 ^ (16 - k) - 1)
    (hk : k ≤ 16) : ((x &&& m) >>> k).toNat = x.toNat / 2 ^ k := by
  have hlt : x.toNat / 2 ^ k < 2 ^ (16 - k) := by
    rw [Nat.div_lt_iff_lt_mul (Nat.two_pow_pos k), ← Nat.pow_add, Nat.sub_add_cancel hk]
    exact x.isLt
  rw [BitVec.toNat_ushiftRight, BitVec.toNat_and, Nat.shiftRight_and_distrib, hm, Nat.and_two_pow_sub_one_eq_mod,
    Nat.shiftRight_eq_div_pow, Nat.mod_eq_of_lt hlt]

theorem groupLaw_a_toNat (w0 w1 w2 : Word) : (groupLaw w0 w1 w2).a.toNat = w2.toNat / 16 := by
  have hlt := w2.isLt
  have hhigh : ((w2 &&& 0xFFF0#16) >>> 4).toNat = w2.toNat / 2 ^ 4 := toNat_and_high_shiftRight w2 rfl (by decide)
  simp only [groupLaw, BitVec.toNat_setWidth, hhigh]
  omega

theorem groupLaw_b_toNat (w0 w1 w2 : Word) :
    (groupLaw w0 w1 w2).b.toNat = w2.toNat % 16 * 256 + w1.toNat / 256 := by
  have hlt := w1.isLt
  have hlow : (w2 &&& 0x000F#16).toNat = w2.toNat % 2 ^ 4 := toNat_and_low w2 rfl
  have hhigh : ((w1 &&& 0xFF00#16) >>> 8).toNat = w1.toNat / 2 ^ 8 := toNat_and_high_shiftRight w1 rfl (by decide)
  simp only [groupLaw, BitVec.toNat_setWidth]
  rw [toNat_shiftLeft_or (by omega) (by omega), hlow, hhigh]
  omega

theorem groupLaw_c_toNat (w0 w1 w2 : Word) :
    (groupLaw w0 w1 w2).c.toNat = w1.toNat % 256 * 16 + w0.toNat / 4096 := by
  have hlt := w0.isLt
  have hlow : (w1 &&& 0x00FF#16).toNat = w1.toNat % 2 ^ 8 := toNat_and_low w1 rfl
  have hhigh : ((w0 &&& 0xF000#16) >>> 12).toNat = w0.toNat / 2 ^ 12 := toNat_and_high_shiftRight w0 rfl (by decide)
  simp only [groupLaw, BitVec.toNat_setWidth]
  rw [toNat_shiftLeft_or (by omega) (by omega), hlow, hhigh]
  omega

theorem groupLaw_d_toNat (w0 w1 w2 : Word) : (groupLaw w0 w1 w2).d.toNat = w0.toNat % 4096 := by
  have hlow : (w0 &&& 0x0FFF#16).toNat = w0.toNat % 2 ^ 12 := toNat_and_low w0 rfl
  simp only [groupLaw, BitVec.toNat_setWidth, hlow]
  omega

/-- A sample widened to a Word is the same number. -/
theorem toNat_setWidth_sample (v : Sample) : (v.setWidth 16).toNat = v.toNat :=
  BitVec.toNat_setWidth_of_le (by decide)

theorem packWord0_toNat (g : Group) : (packWord0 g).toNat = g.c.toNat % 16 * 4096 + g.d.toNat := by
  have hd := g.d.isLt
  have hlow : (g.c.setWidth 16 &&& 0x000F#16).toNat = (g.c.setWidth 16).toNat % 2 ^ 4 := toNat_and_low _ rfl
  rw [toNat_setWidth_sample] at hlow
  rw [packWord0, toNat_shiftLeft_or (by omega) (by rwa [toNat_setWidth_sample]), hlow, toNat_setWidth_sample]
  omega

theorem packWord1_toNat (g : Group) : (packWord1 g).toNat = g.b.toNat % 256 * 256 + g.c.toNat / 16 := by
  have hc := g.c.isLt
  have hlow : (g.b.setWidth 16 &&& 0x00FF#16).toNat = (g.b.setWidth 16).toNat % 2 ^ 8 := toNat_and_low _ rfl
  have hhigh : (g.c.setWidth 16 >>> 4).toNat = g.c.toNat / 2 ^ 4 := by
    rw [BitVec.toNat_ushiftRight, toNat_setWidth_sample, Nat.shiftRight_eq_div_pow]
  rw [toNat_setWidth_sample] at hlow
  rw [packWord1, toNat_shiftLeft_or (by omega) (by omega), hlow, hhigh]
  omega

theorem packWord2_toNat (g : Group) : (packWord2 g).toNat = g.a.toNat * 16 + g.b.toNat / 256 := by
  have ha := g.a.isLt
  have hb := g.b.isLt
  have hhigh : (g.b.setWidth 16 >>> 8).toNat = g.b.toNat / 2 ^ 8 := by
    rw [BitVec.toNat_ushiftRight, toNat_setWidth_sample, Nat.shiftRight_eq_div_pow]
  have hwide := toNat_setWidth_sample g.a
  rw [packWord2, toNat_shiftLeft_or (by omega) (by omega), hwide, hhigh]
  omega

/-- Word 0 of a decoded group is built from the lanes c and d (R136). -/
theorem packWord0_groupLaw (w0 w1 w2 : Word) : packWord0 (groupLaw w0 w1 w2) = w0 := by
  apply BitVec.eq_of_toNat_eq
  rw [packWord0_toNat, groupLaw_c_toNat, groupLaw_d_toNat]
  omega

/-- Word 1 of a decoded group is built from the lanes b and c (R136). -/
theorem packWord1_groupLaw (w0 w1 w2 : Word) : packWord1 (groupLaw w0 w1 w2) = w1 := by
  apply BitVec.eq_of_toNat_eq
  rw [packWord1_toNat, groupLaw_b_toNat, groupLaw_c_toNat]
  omega

/-- Word 2 of a decoded group is built from the lanes a and b (R136). -/
theorem packWord2_groupLaw (w0 w1 w2 : Word) : packWord2 (groupLaw w0 w1 w2) = w2 := by
  apply BitVec.eq_of_toNat_eq
  rw [packWord2_toNat, groupLaw_a_toNat, groupLaw_b_toNat]
  omega

/-- The three Words of a decoded group are the Words it was decoded from (R136). -/
theorem packGroup_groupLaw (w0 w1 w2 : Word) : packGroup (groupLaw w0 w1 w2) = [w0, w1, w2] := by
  rw [packGroup, packWord0_groupLaw, packWord1_groupLaw, packWord2_groupLaw]

/-- A group is its four values. -/
theorem Group.eq_of_fields {g h : Group} (ha : g.a = h.a) (hb : g.b = h.b) (hc : g.c = h.c) (hd : g.d = h.d) :
    g = h := by
  match g, h, ha, hb, hc, hd with
  | ⟨_, _, _, _⟩, ⟨_, _, _, _⟩, rfl, rfl, rfl, rfl => rfl

/-- The three Words built for a group decode to it (R136). -/
theorem groupLaw_pack (g : Group) : groupLaw (packWord0 g) (packWord1 g) (packWord2 g) = g := by
  have ha := g.a.isLt
  have hb := g.b.isLt
  have hc := g.c.isLt
  have hd := g.d.isLt
  refine Group.eq_of_fields (BitVec.eq_of_toNat_eq ?_) (BitVec.eq_of_toNat_eq ?_) (BitVec.eq_of_toNat_eq ?_)
    (BitVec.eq_of_toNat_eq ?_)
  · rw [groupLaw_a_toNat, packWord2_toNat]
    omega
  · rw [groupLaw_b_toNat, packWord1_toNat, packWord2_toNat]
    omega
  · rw [groupLaw_c_toNat, packWord0_toNat, packWord1_toNat]
    omega
  · rw [groupLaw_d_toNat, packWord0_toNat]
    omega

/-! ### The 32 columns of a row, group by group -/

/-- The swap of neighbouring groups undoes itself: quadruple `q` of columns belongs to group `q xor 1` (R138). -/
theorem groupBase_xor_one (q : Nat) : groupBase (q ^^^ 1) = 4 * q := by
  rw [groupBase, Nat.xor_assoc, Nat.xor_self, Nat.xor_zero]

theorem groupBase_add_lt {g : Nat} (hg : g < 8) : groupBase g + 3 < 32 := by
  have hq : g ^^^ 1 < 2 ^ 3 := Nat.xor_lt_two_pow hg (by decide)
  rw [groupBase]
  omega

/-- A group is read back where it was written. -/
theorem groupAt_writeGroup_same {out : SampleRow} (hout : out.length = 32) {g : Nat} (hg : g < 8) (v : Group) :
    groupAt (writeGroup out (groupBase g) v) g = v := by
  have hb := groupBase_add_lt hg
  have h0 : groupBase g < 32 := by omega
  have h1 : groupBase g + 1 < 32 := by omega
  have h2 : groupBase g + 2 < 32 := by omega
  simp [groupAt, writeGroup, hout, h0, h1, h2, hb]

/-- Writing one group leaves every column outside its four as it was. -/
theorem writeGroup_getD_of_ne (out : SampleRow) {base c : Nat} (v : Group) (h : ∀ l < 4, base + l ≠ c) :
    (writeGroup out base v).getD c 0#12 = out.getD c 0#12 := by
  have h0 : base ≠ c := h 0 (by decide)
  have h1 : base + 1 ≠ c := h 1 (by decide)
  have h2 : base + 2 ≠ c := h 2 (by decide)
  have h3 : base + 3 ≠ c := h 3 (by decide)
  simp only [writeGroup, List.getD_eq_getElem?_getD, List.getElem?_set_ne h0, List.getElem?_set_ne h1,
    List.getElem?_set_ne h2, List.getElem?_set_ne h3]

/-- Writing one group leaves every other group as it was: no two groups share a column (R77). -/
theorem groupAt_writeGroup_other (out : SampleRow) {g h : Nat} (hne : g ≠ h) (v : Group) :
    groupAt (writeGroup out (groupBase g) v) h = groupAt out h := by
  have hq : g ^^^ 1 ≠ h ^^^ 1 := fun he => hne (Nat.xor_left_injective he)
  have hcol : ∀ m < 4,
      (writeGroup out (groupBase g) v).getD (groupBase h + m) 0#12 = out.getD (groupBase h + m) 0#12 := by
    refine fun m hm => writeGroup_getD_of_ne out v fun l hl => ?_
    simp only [groupBase]
    omega
  exact Group.eq_of_fields (hcol 0 (by decide)) (hcol 1 (by decide)) (hcol 2 (by decide)) (hcol 3 (by decide))

/-- The row after the first `n` groups of UNPACK_ROW (R137). -/
def unpackedGroups (row : List Word) (n : Nat) : SampleRow :=
  (List.range n).foldl (fun out g => writeGroup out (groupBase g) (groupOfRow row g)) (List.replicate 32 0#12)

theorem unpackRow_eq (row : List Word) : unpackRow row = unpackedGroups row 8 := rfl

theorem unpackedGroups_succ (row : List Word) (n : Nat) :
    unpackedGroups row (n + 1) = writeGroup (unpackedGroups row n) (groupBase n) (groupOfRow row n) := by
  simp only [unpackedGroups, List.range_succ, List.foldl_append, List.foldl_cons, List.foldl_nil]

theorem unpackedGroups_length (row : List Word) (n : Nat) : (unpackedGroups row n).length = 32 := by
  induction n with
  | zero => rfl
  | succ n ih => rw [unpackedGroups_succ, writeGroup_length, ih]

/-- Each group written so far holds the values of its own Words, whatever was written after it. -/
theorem groupAt_unpackedGroups (row : List Word) {n g : Nat} (hn : n ≤ 8) (hg : g < n) :
    groupAt (unpackedGroups row n) g = groupOfRow row g := by
  induction n with
  | zero => exact absurd hg (Nat.not_lt_zero g)
  | succ n ih =>
    rw [unpackedGroups_succ]
    rcases Nat.lt_succ_iff_lt_or_eq.1 hg with hlt | rfl
    · rw [groupAt_writeGroup_other _ (Nat.ne_of_gt hlt), ih (by omega) hlt]
    · exact groupAt_writeGroup_same (unpackedGroups_length row g) hn _

/-- Group `g` of an unpacked row is group `g` of its Words (R137). -/
theorem groupAt_unpackRow (row : List Word) {g : Nat} (hg : g < 8) : groupAt (unpackRow row) g = groupOfRow row g := by
  rw [unpackRow_eq, groupAt_unpackedGroups row (Nat.le_refl 8) hg]

/-- Two rows of 32 values with the same eight groups are the same row (R77). -/
theorem sampleRow_ext {x y : SampleRow} (hx : x.length = 32) (hy : y.length = 32)
    (h : ∀ g < 8, groupAt x g = groupAt y g) : x = y := by
  refine List.ext_getElem (hx.trans hy.symm) fun c hcx hcy => ?_
  have hq : c / 4 ^^^ 1 < 2 ^ 3 := Nat.xor_lt_two_pow (by omega) (by decide)
  have hgroup := h _ hq
  simp only [groupAt, groupBase_xor_one, Group.mk.injEq] at hgroup
  obtain ⟨h0, h1, h2, h3⟩ := hgroup
  have hlane : c = 4 * (c / 4) ∨ c = 4 * (c / 4) + 1 ∨ c = 4 * (c / 4) + 2 ∨ c = 4 * (c / 4) + 3 := by omega
  have hcol : x.getD c 0#12 = y.getD c 0#12 := by
    rcases hlane with hc | hc | hc | hc <;> rw [hc] <;> assumption
  rwa [List.getD_eq_getElem _ _ hcx, List.getD_eq_getElem _ _ hcy] at hcol

/-! ### The 25 Words of a row -/

/-- A list read three elements at a time is the list. -/
theorem flatMap_triples (n : Nat) (l : List Word) (h : l.length = 3 * n) :
    ((List.range n).flatMap fun g => [l.getD (3 * g) 0#16, l.getD (3 * g + 1) 0#16, l.getD (3 * g + 2) 0#16]) = l := by
  induction n generalizing l with
  | zero => exact (List.eq_nil_of_length_eq_zero h).symm
  | succ n ih =>
    match l, h with
    | x :: y :: z :: l, h =>
      have hl := ih l (by simpa [Nat.mul_succ] using h)
      rw [List.range_succ_eq_map, List.flatMap_cons, List.flatMap_map]
      simpa [Nat.mul_succ] using hl

theorem packRow_length (filler : Word) (values : SampleRow) : (packRow filler values).length = 25 := rfl

/-- Group `g` of the Words built for a row is group `g` of the row (R89, R136). -/
theorem groupOfRow_packRow (filler : Word) (values : SampleRow) {g : Nat} (hg : g < 8) :
    groupOfRow (packRow filler values) g = groupAt values g := by
  rw [← groupLaw_pack (groupAt values g)]
  interval_cases g <;> rfl

/-- The 25 Words built for 32 values decode to them, whatever the filler (R89). -/
theorem unpackRow_packRow (filler : Word) {values : SampleRow} (h : values.length = 32) :
    unpackRow (packRow filler values) = values :=
  sampleRow_ext (unpackRow_length _) h fun _ hg => by rw [groupAt_unpackRow _ hg, groupOfRow_packRow _ _ hg]

/-- The Words built for a group of an unpacked row are that group's Words in the row (R136, R137). -/
theorem packGroup_groupAt_unpackRow (filler : Word) (rest : List Word) {g : Nat} (hg : g < 8) :
    packGroup (groupAt (unpackRow (filler :: rest)) g) =
      [rest.getD (3 * g) 0#16, rest.getD (3 * g + 1) 0#16, rest.getD (3 * g + 2) 0#16] := by
  rw [groupAt_unpackRow _ hg, groupOfRow, packGroup_groupLaw, Nat.add_comm 1, Nat.add_comm 2, Nat.add_comm 3]
  rfl

/-- The Words built from a decoded row are the Words it was decoded from (R136). -/
theorem packRow_unpackRow (filler : Word) {rest : List Word} (h : rest.length = 24) :
    packRow filler (unpackRow (filler :: rest)) = filler :: rest := by
  have hgroups : ∀ g ∈ List.range 8, packGroup (groupAt (unpackRow (filler :: rest)) g) =
      [rest.getD (3 * g) 0#16, rest.getD (3 * g + 1) 0#16, rest.getD (3 * g + 2) 0#16] :=
    fun g hg => packGroup_groupAt_unpackRow filler rest (List.mem_range.1 hg)
  rw [packRow, List.flatMap_congr hgroups, flatMap_triples 8 rest h]

end Sys2Proof.Machine
end

section
/-! The obligations on the encoding. -/

namespace Sys2Proof.Machine

/-- Settles O2: a command's pattern is the value written to CMD, upper bits and all; every other pattern stands for an
encoded operation. -/
theorem tableWordsDecodeToTheirRows : Obligations.TableWordsDecodeToTheirRows :=
  ⟨decodeTableWord_of_decode rfl rfl, decodeTableWord_of_decode rfl rfl, decodeTableWord_of_decode rfl rfl,
    decodeTableWord_of_decode rfl rfl, decodeTableWord_of_encode rfl rfl, decodeTableWord_of_encode rfl rfl,
    decodeTableWord_of_encode rfl rfl, decodeTableWord_of_encode rfl rfl, decodeTableWord_of_encode rfl rfl,
    decodeTableWord_of_encode rfl rfl⟩

/-- Settles O3, from the round trip of each operation. -/
theorem decodeInvertsEncode : Obligations.DecodeInvertsEncode := fun _ hw => decode_encode hw

/-- Settles O33: the bit law and its inverse undo each other group by group, and both directions keep the groups of a
row apart. -/
theorem rowCodecAgrees : Obligations.RowCodecAgrees :=
  ⟨fun filler values h => ⟨packRow_length filler values, unpackRow_packRow filler h⟩,
    fun filler _ h => packRow_unpackRow filler h⟩

end Sys2Proof.Machine
end

section
/-! SUPPORT. WordReader: a Word of two bytes and a field of two Words as numbers (R51, R71, R72), and what READ_WORD and
FIELD32 leave in the transient state (R100, R101; log entry 3). -/

namespace Sys2Proof.Machine

/-- Two bit strings put together, the first the more significant, in a width that holds both. -/
theorem toNat_shiftLeft_or_setWidth {m k w : Nat} (hi : BitVec m) (lo : BitVec k) (h : m + k ≤ w) :
    (hi.setWidth w <<< k ||| lo.setWidth w).toNat = 2 ^ k * hi.toNat + lo.toNat := by
  have hhi : hi.toNat <<< k < 2 ^ w := by
    calc hi.toNat <<< k = hi.toNat * 2 ^ k := Nat.shiftLeft_eq ..
      _ < 2 ^ m * 2 ^ k := Nat.mul_lt_mul_of_pos_right hi.isLt (Nat.two_pow_pos k)
      _ = 2 ^ (m + k) := (Nat.pow_add ..).symm
      _ ≤ 2 ^ w := Nat.pow_le_pow_right (by decide) h
  rw [BitVec.toNat_or, BitVec.toNat_shiftLeft, BitVec.toNat_setWidth_of_le (by omega),
    BitVec.toNat_setWidth_of_le (by omega), Nat.mod_eq_of_lt hhi, ← Nat.shiftLeft_add_eq_or_of_lt lo.isLt,
    Nat.shiftLeft_eq, Nat.mul_comm]

/-- The first byte is the more significant (R51, R71). -/
theorem wordOfBytes_toNat (hi lo : Byte) : (wordOfBytes hi lo).toNat = 256 * hi.toNat + lo.toNat :=
  toNat_shiftLeft_or_setWidth hi lo (Nat.le_refl 16)

/-- The first Word is the more significant half (R72). -/
theorem fieldOfWords_toNat (hi lo : Word) : (fieldOfWords hi lo).toNat = 65536 * hi.toNat + lo.toNat :=
  toNat_shiftLeft_or_setWidth hi lo (Nat.le_refl 32)

theorem readWord_toNat (B : Nat → Byte) (i : Nat) :
    (readWord B i).toNat = 256 * (B (2 * i)).toNat + (B (2 * i + 1)).toNat :=
  wordOfBytes_toNat _ _

theorem field32_toNat (W : Nat → Word) (k : Nat) :
    (field32 W k).toNat = 65536 * (W k).toNat + (W (k + 1)).toNat :=
  fieldOfWords_toNat _ _

theorem exec_readWord (i : Nat) (s : State) :
    exec (.readWord i) s = .next (s.setWork { s.work with word := readWord s.byteAt i }) := rfl

theorem exec_field32 (k : Nat) (s : State) :
    exec (.field32 k) s = .next (s.setWork { s.work with field := field32 s.wordAt k }) := rfl

end Sys2Proof.Machine
end

section
/-! The obligations on WordReader. -/

namespace Sys2Proof.Machine

/-- Settles O17: the state READ_WORD answers, and the Word it leaves there as a number. -/
theorem readWordCompletes : Obligations.ReadWordCompletes := fun i s =>
  ⟨_, exec_readWord i s, readWord_toNat s.byteAt i, rfl⟩

/-- Settles O18: the state FIELD32 answers, and the field it leaves there as a number. -/
theorem field32Completes : Obligations.Field32Completes := fun k s =>
  ⟨_, exec_field32 k s, rfl, field32_toNat s.wordAt k, rfl⟩

end Sys2Proof.Machine
end

section
/-! SUPPORT. The signature of a successor header (R74, R111, R112), and each answer of SEEK_NEXT with the condition it
stands for (R110). -/

namespace Sys2Proof.Machine

/-! ### The signature as a counter and a reserved field -/

theorem isSignature_iff {W : Nat → Word} {succ : Reg32} {k : Nat} :
    isSignature W succ k = true ↔ field32 W k = succ ∧ field32 W (k + 2) = 0#32 := by
  rw [isSignature, Bool.and_eq_true, beq_iff_eq, beq_iff_eq]

theorem field32_eq_iff_toNat {W : Nat → Word} {k : Nat} {x : Reg32} :
    field32 W k = x ↔ 65536 * (W k).toNat + (W (k + 1)).toNat = x.toNat := by
  rw [← BitVec.toNat_inj, field32_toNat]

theorem field32_eq_zero_iff {W : Nat → Word} {k : Nat} :
    field32 W k = 0#32 ↔ W k = 0#16 ∧ W (k + 1) = 0#16 := by
  rw [field32_eq_iff_toNat, ← BitVec.toNat_inj, ← BitVec.toNat_inj, BitVec.toNat_ofNat, BitVec.toNat_ofNat]
  omega

theorem successor_toNat (x : Reg32) : (successor x).toNat = (x.toNat + 1) % 2 ^ 32 :=
  BitVec.toNat_add x 1#32

/-! ### The boundaries after a header -/

/-- `k` holds the successor signature of the header at `pos`, after that header and wholly inside the data (R112). -/
def Boundary (W : Nat → Word) (n pos k : Nat) : Prop :=
  pos + 4 ≤ k ∧ k + 4 ≤ n ∧ field32 W k = successor (field32 W pos) ∧ field32 W (k + 2) = 0#32

theorem boundary_iff_isSignature {W : Nat → Word} {n pos k : Nat} :
    Boundary W n pos k ↔ pos + 4 ≤ k ∧ k + 4 ≤ n ∧ isSignature W (successor (field32 W pos)) k = true := by
  rw [isSignature_iff, Boundary]

theorem boundary_iff_words {W : Nat → Word} {n pos k : Nat} :
    Boundary W n pos k ↔ pos + 4 ≤ k ∧ k + 4 ≤ n ∧
      65536 * (W k).toNat + (W (k + 1)).toNat = ((field32 W pos).toNat + 1) % 2 ^ 32 ∧
      W (k + 2) = 0#16 ∧ W (k + 3) = 0#16 := by
  rw [Boundary, field32_eq_iff_toNat, field32_eq_zero_iff, successor_toNat]

theorem seekScan_some_isLeast {W : Nat → Word} {n pos k : Nat}
    (h : seekScan W n (successor (field32 W pos)) n (pos + 4) = some k) : IsLeast {j | Boundary W n pos j} k := by
  obtain ⟨hlo, hhi, hsig, hfirst⟩ := seekScan_some h
  refine ⟨boundary_iff_isSignature.2 ⟨hlo, hhi, hsig⟩, fun j hj => Nat.not_lt.1 fun hlt => ?_⟩
  obtain ⟨hj, -, hjsig⟩ := boundary_iff_isSignature.1 hj
  exact Bool.false_ne_true ((hfirst j hj hlt).symm.trans hjsig)

theorem seekScan_none_not_boundary {W : Nat → Word} {n pos : Nat}
    (h : seekScan W n (successor (field32 W pos)) n (pos + 4) = none) (k : Nat) : ¬ Boundary W n pos k := by
  intro hk
  obtain ⟨hlo, hhi, hsig⟩ := boundary_iff_isSignature.1 hk
  exact Bool.false_ne_true ((seekScan_none h (by omega) k hlo hhi).symm.trans hsig)

/-! ### The answers of SEEK_NEXT -/

theorem seekNext_eq_corruptStream_iff {W : Nat → Word} {n pos : Nat} :
    seekNext W n pos = .corruptStream ↔ pos + 4 ≤ n ∧ field32 W (pos + 2) ≠ 0#32 := by
  rcases seekNext_cases W n pos with ⟨hn, h⟩ | ⟨hn, hres, h⟩ | ⟨-, hres, ⟨k, -, h⟩ | ⟨-, h⟩⟩ <;> rw [h]
  · simp [Nat.not_le.2 hn]
  · simp [hn, hres]
  · simp [hres]
  · simp [hres]

theorem seekNext_eq_packageEnd_iff {W : Nat → Word} {n pos k : Nat} :
    seekNext W n pos = .packageEnd k ↔
      pos + 4 ≤ n ∧ field32 W (pos + 2) = 0#32 ∧ IsLeast {j | Boundary W n pos j} k := by
  rcases seekNext_cases W n pos with ⟨hn, h⟩ | ⟨-, hres, h⟩ | ⟨hn, hres, ⟨j, hscan, h⟩ | ⟨hscan, h⟩⟩ <;> rw [h]
  · simp [Nat.not_le.2 hn]
  · simp [hres]
  · have hleast := seekScan_some_isLeast hscan
    simp only [SeekResult.packageEnd.injEq, hn, hres, true_and]
    exact ⟨fun hjk => hjk ▸ hleast, hleast.unique⟩
  · have hk := seekScan_none_not_boundary hscan k
    simp only [reduceCtorEq, false_iff]
    exact fun ⟨_, _, hleast⟩ => hk hleast.1

theorem seekNext_eq_endOfData_iff {W : Nat → Word} {n pos : Nat} :
    seekNext W n pos = .endOfData ↔
      ¬ pos + 4 ≤ n ∨ (field32 W (pos + 2) = 0#32 ∧ ∀ k, ¬ Boundary W n pos k) := by
  rcases seekNext_cases W n pos with ⟨hn, h⟩ | ⟨hn, hres, h⟩ | ⟨hn, hres, ⟨k, hscan, h⟩ | ⟨hscan, h⟩⟩ <;> rw [h]
  · simp [Nat.not_le.2 hn]
  · simp [hn, hres]
  · simpa [hn, hres] using ⟨k, (seekScan_some_isLeast hscan).1⟩
  · simpa [hn, hres] using seekScan_none_not_boundary hscan

theorem exec_seekNext (pos : Nat) (s : State) :
    exec (.seekNext pos) s = .next (s.setWork { s.work with seek := some (seekNext s.wordAt s.numWords pos) }) := rfl

end Sys2Proof.Machine
end

section
/-! SUPPORT. A package built from Words, read back: its counter and its reserved field (R73, R74, R89). -/

namespace Sys2Proof.Machine

theorem fieldOfWords_halves (x : Reg32) : fieldOfWords ((x >>> 16).setWidth 16) (x.setWidth 16) = x := by
  apply BitVec.eq_of_toNat_eq
  rw [fieldOfWords_toNat, BitVec.toNat_setWidth, BitVec.toNat_setWidth, BitVec.toNat_ushiftRight,
    Nat.shiftRight_eq_div_pow]
  omega

@[simp] theorem packPackage_length (seq res : Reg32) (payload : List Word) :
    (packPackage seq res payload).length = 4 + payload.length := by
  rw [packPackage, List.length_append]
  rfl

/-- Reading Words behind a prefix is reading what follows it. -/
theorem field32_getD_append (pre ws : List Word) (k : Nat) :
    field32 (fun i => (pre ++ ws).getD i 0#16) (pre.length + k) = field32 (fun i => ws.getD i 0#16) k := by
  have hskip (i : Nat) : (pre ++ ws).getD (pre.length + i) 0#16 = ws.getD i 0#16 := by
    rw [List.getD_append_right _ _ _ _ (Nat.le_add_right ..), Nat.add_sub_cancel_left]
  simp only [field32, Nat.add_assoc, hskip]

/-- The counter of a package that stands behind a prefix. -/
theorem field32_packPackage_counter (pre : List Word) (seq res : Reg32) (payload post : List Word) :
    field32 (fun i => (pre ++ (packPackage seq res payload ++ post)).getD i 0#16) pre.length = seq :=
  (field32_getD_append pre _ 0).trans (fieldOfWords_halves seq)

/-- The reserved field of a package that stands behind a prefix. -/
theorem field32_packPackage_reserved (pre : List Word) (seq res : Reg32) (payload post : List Word) :
    field32 (fun i => (pre ++ (packPackage seq res payload ++ post)).getD i 0#16) (pre.length + 2) = res :=
  (field32_getD_append pre _ 2).trans (fieldOfWords_halves res)

end Sys2Proof.Machine
end

section
/-! SUPPORT. A zero reserved field at the start keeps MAKE_LINK and the loop over the links from CorruptStream: every
later header they reach is a boundary, whose reserved field is zero (R110 (h), R114). -/

namespace Sys2Proof.Machine

theorem makeLinkFrom_out_ne_corrupt {W : Nat → Word} {n nominal maxRows pos : Nat} (fuel : Nat) (buf : List Word)
    (hres : field32 W (pos + 2) = 0#32) : (makeLinkFrom W n nominal maxRows fuel buf pos).out ≠ .corrupt := by
  induction fuel generalizing buf pos with
  | zero => exact LinkOutcome.noConfusion
  | succ fuel ih =>
    rw [makeLinkFrom_succ]
    cases hs : seekNext W n pos with
    | corruptStream => exact absurd hres (seekNext_eq_corruptStream_iff.1 hs).2
    | endOfData =>
      dsimp only
      split
      · split <;> exact LinkOutcome.noConfusion
      · exact LinkOutcome.noConfusion
    | packageEnd k =>
      obtain ⟨-, -, ⟨-, -, -, hk⟩, -⟩ := seekNext_eq_packageEnd_iff.1 hs
      dsimp only
      split
      · exact LinkOutcome.noConfusion
      · split
        · exact LinkOutcome.noConfusion
        · exact ih _ hk

/-- MAKE_LINK hands on a boundary where it completes. -/
theorem State.makeLink_complete_reserved {s : State} {pos : Nat} (h : (s.makeLink pos).out = .complete) :
    field32 s.wordAt ((s.makeLink pos).next + 2) = 0#32 := by
  rcases (s.makeLink_cases pos).2 with ⟨h', -⟩ | ⟨h', -⟩ | ⟨-, -, -, hres, -⟩ | ⟨h', -⟩ | ⟨h', -⟩
  · cases h.symm.trans h'
  · cases h.symm.trans h'
  · exact hres
  · cases h.symm.trans h'
  · cases h.symm.trans h'

theorem decodeLinks_ne_corruptStream {s : State} {pos : Nat} (left : Nat) (done : List LinkResult)
    (hres : field32 s.wordAt (pos + 2) = 0#32) (p : Nat) (d : List LinkResult) :
    decodeLinks s left pos done ≠ .failed .corruptStream p d := by
  induction left generalizing pos done with
  | zero => exact LinksResult.noConfusion
  | succ left ih =>
    rw [decodeLinks_succ]
    cases hout : (s.makeLink pos).out with
    | corrupt => exact absurd hout (makeLinkFrom_out_ne_corrupt _ _ hres)
    | exceeded => simp
    | complete => exact ih _ (State.makeLink_complete_reserved hout)
    | truncated =>
      dsimp only
      split <;> simp

/-- DECODE_BODY reports CORRUPT_STREAM only from a readable header at CURSOR with a reserved field that is not zero. -/
theorem decodeBody_outcome_corruptStream {s : State} (h : (decodeBody s).outcome = .corruptStream) :
    s.cursor.toNat + 4 ≤ s.numWords ∧ field32 s.wordAt (s.cursor.toNat + 2) ≠ 0#32 := by
  rcases decodeBody_cases s with ⟨-, he⟩ | ⟨hn, x, p, done, he, hl, -⟩ | ⟨-, p, done, he, -⟩ <;> rw [he] at h
  · cases h
  · obtain rfl : x = .corruptStream := h
    exact ⟨hn, fun hres => decodeLinks_ne_corruptStream 4 [] hres p done hl⟩
  · cases h

theorem exec_decode_of_ready {s : State} (hs : readyToDecode s) : exec .decode s = .next (decodeBody s) := by
  obtain ⟨hc, hf⟩ := hs
  change execDecode s = _
  simp [execDecode, hc, hf]

end Sys2Proof.Machine
end

section
/-! The obligations on PackageFramer, and on where DECODE reports CORRUPT_STREAM. -/

namespace Sys2Proof.Machine

/-- Settles O19: the state SEEK_NEXT answers, and each of its answers by its own equivalence. -/
theorem seekNextCompletes : Obligations.SeekNextCompletes := fun pos s =>
  ⟨_, exec_seekNext pos s, rfl, seekNext_eq_endOfData_iff, seekNext_eq_corruptStream_iff,
    fun _ => seekNext_eq_packageEnd_iff⟩

/-- Settles O20: the boundaries on fields are the boundaries on Words. -/
theorem packageEndIsLeastSignature : Obligations.PackageEndIsLeastSignature := by
  intro W n pos k hn hres
  simp only [← boundary_iff_words]
  exact seekNext_eq_packageEnd_iff.trans ⟨fun ⟨_, _, hleast⟩ => hleast, fun hleast => ⟨hn, hres, hleast⟩⟩

/-- Settles O21: the counter of a boundary is the successor, and the successor wraps. -/
theorem boundaryCounterIsSuccessor : Obligations.BoundaryCounterIsSuccessor := by
  refine ⟨fun W n pos k h => ?_, rfl⟩
  obtain ⟨-, -, ⟨-, -, hcounter, -⟩, -⟩ := seekNext_eq_packageEnd_iff.1 h
  rw [hcounter, successor_toNat]

/-- Settles O22: the reserved field of a boundary is zero. -/
theorem boundaryIsNeverCorrupt : Obligations.BoundaryIsNeverCorrupt := by
  intro W n pos k h hc
  obtain ⟨-, -, ⟨-, -, -, hres⟩, -⟩ := seekNext_eq_packageEnd_iff.1 h
  exact (seekNext_eq_corruptStream_iff.1 hc).2 hres

/-- Settles O23: the second header is a boundary, and an earlier boundary would be a signature in the payload. -/
theorem syntheticPackageIsFramed : Obligations.SyntheticPackageIsFramed := by
  intro seq payload after rest ws W hpayload
  have hws : ws = packPackage seq 0#32 payload ++ (packPackage (seq + 1#32) 0#32 after ++ rest) :=
    List.append_assoc ..
  have hlen : ws.length = 4 + payload.length + (4 + after.length + rest.length) := by simp [hws]
  have hW : W = fun i => (packPackage seq 0#32 payload ++ (packPackage (seq + 1#32) 0#32 after ++ rest)).getD i 0#16 :=
    hws ▸ rfl
  have hcounter0 : field32 W 0 = seq := hW ▸ field32_packPackage_counter [] ..
  have hreserved0 : field32 W (0 + 2) = 0#32 := hW ▸ field32_packPackage_reserved [] ..
  have hcounter : field32 W (4 + payload.length) = seq + 1#32 := by
    rw [hW, ← packPackage_length seq 0#32, field32_packPackage_counter]
  have hreserved : field32 W (4 + payload.length + 2) = 0#32 := by
    rw [hW, ← packPackage_length seq 0#32, field32_packPackage_reserved]
  refine seekNext_eq_packageEnd_iff.2 ⟨by omega, hreserved0, ⟨by omega, by omega, ?_, hreserved⟩, fun j hj => ?_⟩
  · rw [hcounter, hcounter0, successor]
  · obtain ⟨hlo, -, hsig⟩ := boundary_iff_isSignature.1 hj
    rw [hcounter0, successor] at hsig
    exact Nat.not_lt.1 fun hlt => Bool.false_ne_true ((hpayload j (by omega) hlt).symm.trans hsig)

/-- Settles O45: DECODE on a ready core is DECODE_BODY, which reports CORRUPT_STREAM for the header at CURSOR only. -/
theorem corruptStreamOnlyAtCursor : Obligations.CorruptStreamOnlyAtCursor := by
  intro s t hready h hout
  rw [exec_decode_of_ready hready] at h
  cases h
  exact decodeBody_outcome_corruptStream hout

end Sys2Proof.Machine
end

section
/-! SUPPORT. LinkAssembler: the quirk and a copied payload Word by Word (R120, R121), the loop of MAKE_LINK past a
package end (R122), and what APPEND, MAKE_LINK and ROW_COUNT leave in the transient state (log entry 3). -/

namespace Sys2Proof.Machine

/-! ### APPEND -/

theorem quirk_iff {W : Nat → Word} {start stop : Nat} :
    quirk W start stop = true ↔
      start + 2 ≤ stop ∧ W start = 0x0000#16 ∧ (W (start + 1) = 0xFACE#16 ∨ W (start + 1) = 0xFEED#16) := by
  have htwo : stop - start ≥ 2 ↔ start + 2 ≤ stop := by omega
  simp only [quirk, Bool.and_eq_true, Bool.or_eq_true, decide_eq_true_eq, beq_iff_eq, htwo, and_assoc, Config.syncA,
    Config.syncB]

theorem slice_getElem? {W : Nat → Word} {a b j : Nat} (h : j < (slice W a b).length) :
    (slice W a b)[j]? = some (W (a + j)) := by
  rw [slice_length] at h
  rw [slice, List.getElem?_map, List.getElem?_range' h, Nat.one_mul]
  rfl

theorem exec_append (start stop : Nat) (s : State) :
    exec (.append start stop) s = .next (s.setWork { s.work with buf := append s.wordAt start stop s.work.buf }) := rfl

/-! ### MAKE_LINK and ROW_COUNT -/

/-- Past a package end the bound on the passes has room for one pass less. -/
theorem makeLinkFrom_of_packageEnd {W : Nat → Word} {n nominal maxRows pos k : Nat}
    (h : seekNext W n pos = .packageEnd k) (buf : List Word) :
    makeLinkFrom W n nominal maxRows n buf k = makeLinkFrom W n nominal maxRows (n + 1) buf k := by
  obtain ⟨hk, hn, -⟩ := seekNext_packageEnd_bounds h
  exact makeLinkFrom_fuel buf k (by omega) (by omega) (by omega) (by omega)

theorem makeLink_of_corruptStream {W : Nat → Word} {n nominal maxRows pos : Nat}
    (h : seekNext W n pos = .corruptStream) : makeLink W n nominal maxRows pos = ⟨[], pos, pos, .corrupt⟩ := by
  rw [makeLink, makeLinkFrom_succ, h]

/-- Only the header a link starts at can be corrupt (R114, R122 (g)). -/
theorem makeLink_corrupt_reserved {W : Nat → Word} {n nominal maxRows pos : Nat}
    (h : (makeLink W n nominal maxRows pos).out = .corrupt) : field32 W (pos + 2) ≠ 0#32 :=
  fun hres => makeLinkFrom_out_ne_corrupt (n + 1) [] hres h

theorem exec_makeLink (pos : Nat) (s : State) :
    exec (.makeLink pos) s =
      .next (s.setWork { s.work with buf := (s.makeLink pos).buf, link := some (s.makeLink pos) }) := rfl

theorem exec_rowCount (s : State) :
    exec .rowCount s = .next (s.setWork { s.work with count := rowCount s.work.buf }) := rfl

theorem length_lt_rowCount_mul (buf : List Word) : buf.length < 25 * rowCount buf + 25 := by
  rw [rowCount]
  omega

end Sys2Proof.Machine
end

section
/-! The obligations on LinkAssembler. -/

namespace Sys2Proof.Machine

/-- Settles O24: the Words copied are a slice of the stream that starts one Word later where the quirk stands. -/
theorem appendCompletes : Obligations.AppendCompletes := by
  intro start stop s
  refine ⟨slice s.wordAt (if quirk s.wordAt start stop then start + 1 else start) stop,
    exec_append start stop s, rfl, ?_⟩
  simp only [← quirk_iff (W := s.wordAt)]
  cases quirk s.wordAt start stop with
  | true => exact ⟨(slice_length ..).trans (Nat.sub_sub ..).symm, fun _ => slice_getElem?⟩
  | false => exact ⟨slice_length .., fun _ => slice_getElem?⟩

/-- Settles O25: the bounded loop with `n + 1` passes solves the rule's equation, by the answer of SEEK_NEXT. -/
theorem makeLinkFollowsItsLoop : Obligations.MakeLinkFollowsItsLoop := by
  intro W n nominal maxRows
  refine ⟨makeLinkFrom W n nominal maxRows (n + 1), fun _ => rfl, fun buf pos => ?_⟩
  rw [makeLinkFrom_succ]
  cases h : seekNext W n pos with
  | corruptStream => rfl
  | endOfData => rfl
  | packageEnd k =>
    dsimp only
    rw [makeLinkFrom_of_packageEnd h]
    rfl

/-- Settles O27: the ways the loop can end, each read off for its outcome; a corrupt link ends where it starts. -/
theorem linkEndsWhereRuled : Obligations.LinkEndsWhereRuled := by
  intro W n nominal maxRows pos hn r
  have hr : makeLink W n nominal maxRows pos = r := rfl
  clear_value r
  obtain ⟨hfail, hends⟩ := makeLinkFrom_cases (by omega) (by omega) hr
  refine ⟨hfail, ?_⟩
  rcases hends with ⟨hout, -⟩ | ⟨hout, hex⟩ | ⟨hout, hcomplete⟩ | ⟨hout, hseek, hhdr, hnext, hrows, -⟩ | ⟨-, hlt, -⟩
  · have hres : field32 W (pos + 2) ≠ 0#32 := makeLink_corrupt_reserved (hr ▸ hout)
    rw [makeLink_of_corruptStream (seekNext_eq_corruptStream_iff.2 ⟨hn, hres⟩)] at hr
    simp [← hr, hres]
  · simp [hout, hex]
  · simp [hout, hcomplete]
  · simp [hout, hseek, hhdr, hnext, hrows]
  · omega

/-- Settles O26. -/
theorem makeLinkCompletes : Obligations.MakeLinkCompletes := fun pos s =>
  ⟨s.makeLink pos, exec_makeLink pos s, rfl⟩

/-- Settles O29: the quotient by 25 is bounded by the buffer on both sides. -/
theorem rowCountCompletes : Obligations.RowCountCompletes := fun s =>
  ⟨rowCount s.work.buf, exec_rowCount s, rowCount_mul_le s.work.buf, length_lt_rowCount_mul s.work.buf⟩

end Sys2Proof.Machine
end

section
/-! SUPPORT. SampleUnpacker: the bit law as one 48-bit number (R135, R136), the four columns of each group and the
filler (R137, R138), the Words a row of a link is cut from (R139), and what the three operations leave in the transient
state (log entry 3). -/

namespace Sys2Proof.Machine

/-! ### The bit law as a 48-bit number -/

/-- The four values in order of significance are the three Words in order of significance (R135). -/
theorem groupLaw_number (w0 w1 w2 : Word) :
    (groupLaw w0 w1 w2).a.toNat * 2 ^ 36 + (groupLaw w0 w1 w2).b.toNat * 2 ^ 24 +
      (groupLaw w0 w1 w2).c.toNat * 2 ^ 12 + (groupLaw w0 w1 w2).d.toNat =
        w2.toNat * 2 ^ 32 + w1.toNat * 2 ^ 16 + w0.toNat := by
  rw [groupLaw_a_toNat, groupLaw_b_toNat, groupLaw_c_toNat, groupLaw_d_toNat]
  omega

theorem toNat_append_words (w0 w1 w2 : Word) :
    (w2 ++ w1 ++ w0).toNat = w2.toNat * 2 ^ 32 + w1.toNat * 2 ^ 16 + w0.toNat := by
  rw [BitVec.toNat_append, BitVec.toNat_append, ← Nat.shiftLeft_add_eq_or_of_lt w1.isLt,
    ← Nat.shiftLeft_add_eq_or_of_lt w0.isLt, Nat.shiftLeft_eq, Nat.shiftLeft_eq]
  omega

/-- The 12 bits of `w2 : w1 : w0` from bit `k` on, as a number. -/
theorem extract_words_toNat (w0 w1 w2 : Word) (k : Nat) :
    ((w2 ++ w1 ++ w0).extractLsb' k 12).toNat =
      (w2.toNat * 2 ^ 32 + w1.toNat * 2 ^ 16 + w0.toNat) / 2 ^ k % 2 ^ 12 := by
  rw [BitVec.extractLsb'_toNat, toNat_append_words, Nat.shiftRight_eq_div_pow]

/-- The four values are the 12-bit digits of `w2 : w1 : w0` (R136). -/
theorem groupLaw_eq_extract (w0 w1 w2 : Word) :
    (groupLaw w0 w1 w2).d = (w2 ++ w1 ++ w0).extractLsb' 0 12 ∧
    (groupLaw w0 w1 w2).c = (w2 ++ w1 ++ w0).extractLsb' 12 12 ∧
    (groupLaw w0 w1 w2).b = (w2 ++ w1 ++ w0).extractLsb' 24 12 ∧
    (groupLaw w0 w1 w2).a = (w2 ++ w1 ++ w0).extractLsb' 36 12 := by
  have hnumber := groupLaw_number w0 w1 w2
  have ha := (groupLaw w0 w1 w2).a.isLt
  have hb := (groupLaw w0 w1 w2).b.isLt
  have hc := (groupLaw w0 w1 w2).c.isLt
  have hd := (groupLaw w0 w1 w2).d.isLt
  refine ⟨BitVec.eq_of_toNat_eq ?_, BitVec.eq_of_toNat_eq ?_, BitVec.eq_of_toNat_eq ?_, BitVec.eq_of_toNat_eq ?_⟩ <;>
    rw [extract_words_toNat, ← hnumber] <;> omega

theorem exec_unpackGroup (w0 w1 w2 : Word) (s : State) :
    exec (.unpackGroup w0 w1 w2) s = .next (s.setWork { s.work with group := groupLaw w0 w1 w2 }) := rfl

/-! ### The columns of a row -/

/-- An even group writes the quadruple above its own, an odd group the one below (R138). -/
theorem groupBase_eq_ite (g : Nat) : groupBase g = if g % 2 = 0 then 4 * (g + 1) else 4 * (g - 1) := by
  rw [groupBase]
  split
  · next heven => rw [Nat.xor_one_of_even (Nat.even_iff.2 heven)]
  · next hodd => rw [Nat.xor_one_of_odd (Nat.odd_iff.2 (by omega))]

/-- The columns of group `g` in a row of 32 values. -/
theorem getElem?_of_groupAt {out : SampleRow} (hout : out.length = 32) {g : Nat} (hg : g < 8) {v : Group}
    (hv : groupAt out g = v) :
    out[groupBase g]? = some v.a ∧ out[groupBase g + 1]? = some v.b ∧ out[groupBase g + 2]? = some v.c ∧
      out[groupBase g + 3]? = some v.d := by
  have hb := groupBase_add_lt hg
  have hcol : ∀ m < 4, out[groupBase g + m]? = some (out.getD (groupBase g + m) 0#12) := by
    intro m hm
    have hlt : groupBase g + m < out.length := by omega
    rw [List.getElem?_eq_getElem hlt, List.getD_eq_getElem _ _ hlt]
  subst hv
  exact ⟨hcol 0 (by decide), hcol 1 (by decide), hcol 2 (by decide), hcol 3 (by decide)⟩

/-- No group reads Word 0 of a row. -/
theorem groupOfRow_set_zero (row : List Word) (filler : Word) (g : Nat) :
    groupOfRow (row.set 0 filler) g = groupOfRow row g := by
  have hword : ∀ j, 0 ≠ j → (row.set 0 filler).getD j 0#16 = row.getD j 0#16 := by
    intro j hj
    rw [List.getD_eq_getElem?_getD, List.getElem?_set_ne hj, List.getD_eq_getElem?_getD]
  rw [groupOfRow, hword _ (by omega), hword _ (by omega), hword _ (by omega), groupOfRow]

/-- The filler has no effect (R137). -/
theorem unpackRow_set_zero (row : List Word) (filler : Word) : unpackRow (row.set 0 filler) = unpackRow row :=
  sampleRow_ext (unpackRow_length _) (unpackRow_length _) fun _ hg => by
    rw [groupAt_unpackRow _ hg, groupAt_unpackRow _ hg, groupOfRow_set_zero]

theorem exec_unpackRow (row : List Word) (s : State) :
    exec (.unpackRow row) s = .next (s.setWork { s.work with row := unpackRow row }) := rfl

/-! ### The rows of a link -/

/-- The Words that row `r` of a link is cut from (R139). -/
def rowWords (buf : List Word) (r : Nat) : List Word := (buf.drop (25 * r)).take 25

/-- A row of a link has its 25 Words in the buffer (R125, R139). -/
theorem rowWords_length {buf : List Word} {r : Nat} (hr : r < rowCount buf) : (rowWords buf r).length = 25 := by
  have hbuf := rowCount_mul_le buf
  rw [rowWords, List.length_take, List.length_drop]
  omega

theorem rowWords_getElem? (buf : List Word) (r : Nat) {j : Nat} (hj : j < 25) :
    (rowWords buf r)[j]? = buf[25 * r + j]? := by
  rw [rowWords, List.getElem?_take_of_lt hj, List.getElem?_drop]

theorem unpackLink_getElem? {buf : List Word} {r : Nat} (hr : r < (unpackLink buf).length) :
    (unpackLink buf)[r]? = some (unpackRow (rowWords buf r)) := by
  rw [List.getElem?_eq_getElem hr, unpackLink_getElem, rowWords]

theorem exec_unpackLink (i : Fin 4) (s : State) :
    exec (.unpackLink i) s =
      .next (s.setWork { s.work with rows := s.work.rows.set i (unpackLink s.work.buf) }) := rfl

end Sys2Proof.Machine
end

section
/-! The obligations on SampleUnpacker. -/

namespace Sys2Proof.Machine

/-- Settles O30: the state UNPACK_GROUP answers, and the group it leaves there as a 48-bit number. -/
theorem unpackGroupCompletes : Obligations.UnpackGroupCompletes := fun w0 w1 w2 s =>
  ⟨_, exec_unpackGroup w0 w1 w2 s, rfl, groupLaw_number w0 w1 w2⟩

/-- Settles O31: the two directions of the inverse, and the digits of the 48-bit number. -/
theorem groupLawIsBijection : Obligations.GroupLawIsBijection :=
  ⟨fun w0 w1 w2 => ⟨packWord0_groupLaw w0 w1 w2, packWord1_groupLaw w0 w1 w2, packWord2_groupLaw w0 w1 w2⟩,
    groupLaw_pack, groupLaw_eq_extract⟩

/-- Settles O32: each group stands in its four columns, and no group reads the filler. -/
theorem unpackRowCompletes : Obligations.UnpackRowCompletes := by
  intro row s _
  refine ⟨unpackRow row, exec_unpackRow row s, rfl, unpackRow_length row, fun g hg => ?_, unpackRow_set_zero row⟩
  rw [← groupBase_eq_ite]
  exact getElem?_of_groupAt (unpackRow_length row) hg (groupAt_unpackRow row hg)

/-- Settles O34: link `i` is set alone, and each of its rows is cut from the buffer at its own 25 Words. -/
theorem unpackLinkCompletes : Obligations.UnpackLinkCompletes := by
  intro i s
  refine ⟨unpackLink s.work.buf, _, exec_unpackLink i s, rfl, PerLink.get_set_same .., ?_, rfl,
    unpackLink_length s.work.buf, fun r hr => ?_⟩
  · exact fun j hj => PerLink.get_set_other s.work.rows i j _ hj
  · exact ⟨rowWords s.work.buf r, rowWords_length (unpackLink_length s.work.buf ▸ hr),
      fun _ => rowWords_getElem? s.work.buf r, unpackLink_getElem? hr⟩

end Sys2Proof.Machine
end

section
/-! SUPPORT. TriggerAssembler: the longest link (R150), one cell of a link's quadrant (R150, R151), the quadrant a
column of the block falls in (R150), and what ASSEMBLE leaves in the transient state (log entry 3). -/

namespace Sys2Proof.Machine

/-! ### The longest link -/

theorem get_length_le_blockRows (rows : PerLink (List SampleRow)) (i : Fin 4) :
    (rows.get i).length ≤ blockRows rows := by
  match i with
  | 0 => exact le_max_of_le_left (le_max_left ..)
  | 1 => exact le_max_of_le_left (le_max_right ..)
  | 2 => exact le_max_of_le_right (le_max_left ..)
  | 3 => exact le_max_of_le_right (le_max_right ..)

theorem exists_blockRows_eq_get_length (rows : PerLink (List SampleRow)) :
    ∃ i : Fin 4, blockRows rows = (rows.get i).length := by
  rw [blockRows]
  rcases max_choice (max rows.l0.length rows.l1.length) (max rows.l2.length rows.l3.length) with h | h
  · rw [h]
    exact (max_choice ..).elim (⟨0, ·⟩) (⟨1, ·⟩)
  · rw [h]
    exact (max_choice ..).elim (⟨2, ·⟩) (⟨3, ·⟩)

/-! ### The cells of a quadrant -/

theorem quadrant_getElem?_of_row {link : List SampleRow} {r c : Nat} {row : SampleRow} (hr : link[r]? = some row)
    (hc : c < row.length) : (quadrant link r)[c]? = some ((row.getD c 0#12).setWidth 16) := by
  rw [quadrant, hr, List.getElem?_map, List.getElem?_eq_getElem hc, List.getD_eq_getElem _ _ hc]
  rfl

theorem quadrant_getElem?_of_no_row {link : List SampleRow} {r c : Nat} (hr : link[r]? = none) (hc : c < 32) :
    (quadrant link r)[c]? = some 0#16 := by
  rw [quadrant, hr, List.getElem?_replicate_of_lt hc]
  rfl

/-! ### The columns of the block -/

/-- Lists of one length `n` in a row: entry `n * i + c` of the whole is entry `c` of list `i`. -/
theorem getElem?_flatten_of_length {α : Type} {n c : Nat} (hc : c < n) (ls : List (List α))
    (h : ∀ l ∈ ls, l.length = n) (i : Nat) (hi : i < ls.length) : ls.flatten[n * i + c]? = ls[i][c]? := by
  induction ls generalizing i with
  | nil => cases hi
  | cons l ls ih =>
    obtain ⟨hl, hls⟩ := List.forall_mem_cons.1 h
    rw [List.flatten_cons]
    cases i with
    | zero => rw [Nat.mul_zero, Nat.zero_add, List.getElem?_append_left (hl ▸ hc), List.getElem_cons_zero]
    | succ i =>
      have hskip : n * (i + 1) + c = n * i + c + l.length := by rw [hl, Nat.mul_succ, Nat.add_right_comm]
      rw [hskip, List.getElem?_append_right (Nat.le_add_left ..), Nat.add_sub_cancel,
        ih hls i (Nat.lt_of_succ_lt_succ hi), List.getElem_cons_succ]

/-- A row of ASSEMBLE is the row of its quadrants in link order (R150). -/
theorem assemble_getElem_eq_flatten (rows : PerLink (List SampleRow)) {r : Nat} (hr : r < (assemble rows).length) :
    (assemble rows)[r] = (List.ofFn fun i => quadrant (rows.get i) r).flatten := by
  rw [assemble_getElem]
  simp [List.ofFn_succ, PerLink.get]

/-- Column `32 * i + c` of a row of ASSEMBLE is column `c` of the quadrant of link `i` (R150). -/
theorem assemble_getElem_column {rows : PerLink (List SampleRow)} (h : rowsOk rows) {r : Nat}
    (hr : r < (assemble rows).length) (i : Fin 4) {c : Nat} (hc : c < 32) :
    (assemble rows)[r][32 * i.val + c]? = (quadrant (rows.get i) r)[c]? := by
  have hlen : ∀ q ∈ List.ofFn (fun i => quadrant (rows.get i) r), q.length = 32 :=
    List.forall_mem_ofFn_iff.2 fun i => quadrant_length (h i) r
  have hi : i.val < (List.ofFn fun i => quadrant (rows.get i) r).length := by
    rw [List.length_ofFn]
    exact i.isLt
  rw [assemble_getElem_eq_flatten, getElem?_flatten_of_length hc _ hlen i hi, List.getElem_ofFn]

theorem exec_assemble (s : State) :
    exec .assemble s = .next (s.setWork { s.work with blk := assemble s.work.rows }) := rfl

end Sys2Proof.Machine
end

section
/-! The obligation on TriggerAssembler. -/

namespace Sys2Proof.Machine

/-- Settles O35: each column is found in its link's quadrant, whose cell is a sample or the fill. -/
theorem assembleCompletes : Obligations.AssembleCompletes := by
  intro s hrows
  refine ⟨assemble s.work.rows, exec_assemble s, rfl, ?_, ?_, fun r hr i c hc => ?_⟩
  · exact fun i => (get_length_le_blockRows s.work.rows i).trans_eq (assemble_length s.work.rows).symm
  · rw [assemble_length]
    exact exists_blockRows_eq_get_length s.work.rows
  · rw [List.getElem?_eq_getElem hr, Option.getD_some, assemble_getElem_column hrows hr i hc]
    cases hrow : (s.work.rows.get i)[r]? with
    | some row => exact quadrant_getElem?_of_row hrow (hrows i row (List.mem_of_getElem? hrow) ▸ hc)
    | none => exact quadrant_getElem?_of_no_row hrow hc

end Sys2Proof.Machine
end

section
/-! SUPPORT. ChannelRemapper: a verified table has each value 1 to 128 at one index (R160), so that every copy of REMAP
has an output column of its own (R161 (a)), and what the two operations leave in the transient state (log entry 3). -/

namespace Sys2Proof.Machine

/-! ### Tables with each value once -/

theorem verifiedTable_getElem_inj {t : List Byte} (h : verifiedTable t) {e e' : Nat} (he : e < t.length)
    (he' : e' < t.length) (heq : t[e].toNat = t[e'].toNat) : e = e' := by
  obtain ⟨-, hnodup⟩ := (verifyTable_iff t).1 h.2
  refine (hnodup.getElem_inj_iff (hi := by rwa [List.length_map]) (hj := by rwa [List.length_map])).1 ?_
  rwa [List.getElem_map, List.getElem_map]

/-- 128 entries that take all of the values 1 to 128 are a rearrangement of them, so none is left over or taken
twice (R160). -/
theorem map_toNat_perm_range' {t : List Byte} (hlen : t.length = 128)
    (h : ∀ v, 1 ≤ v → v ≤ 128 → v ∈ t.map BitVec.toNat) : (List.range' 1 128).Perm (t.map BitVec.toNat) := by
  have hsub : List.range' 1 128 ⊆ t.map BitVec.toNat := fun v hv => by
    obtain ⟨h1, h2⟩ := List.mem_range'_1.1 hv
    exact h v h1 (Nat.le_of_lt_succ h2)
  refine (List.subperm_of_subset List.nodup_range' hsub).perm_of_length_le ?_
  rw [List.length_map, hlen, List.length_range']

theorem verifyTable_of_forall_mem {t : List Byte} (hlen : t.length = 128)
    (h : ∀ v, 1 ≤ v → v ≤ 128 → v ∈ t.map BitVec.toNat) : verifyTable t = true := by
  have hperm := map_toNat_perm_range' hlen h
  refine (verifyTable_iff t).2 ⟨fun p hp => ?_, hperm.nodup List.nodup_range'⟩
  have hmem : p.toNat ∈ List.range' 1 128 := hperm.mem_iff.2 (List.mem_map_of_mem hp)
  obtain ⟨h1, h2⟩ := List.mem_range'_1.1 hmem
  exact ⟨h1, Nat.le_of_lt_succ h2⟩

/-! ### The staging table -/

@[simp] theorem State.permTable_getElem (s : State) (e : Nat) (h : e < s.permTable.length) :
    s.permTable[e] = s.permAt e := by
  simp [State.permTable]

theorem State.permAt_mem_permTable (s : State) {e : Nat} (he : e < 128) : s.permAt e ∈ s.permTable :=
  List.mem_map_of_mem (List.mem_range.2 he)

/-- VERIFY_TABLE accepts PERM exactly when each value 1 to 128 is the entry of one index (R160). -/
theorem State.verifyTable_permTable_iff (s : State) :
    verifyTable s.permTable = true ↔ ∀ v : Nat, 1 ≤ v → v ≤ 128 →
      ∃ e, e < 128 ∧ (s.permAt e).toNat = v ∧ ∀ e', e' < 128 → (s.permAt e').toNat = v → e' = e := by
  constructor
  · intro hv v h1 h2
    have ht : verifiedTable s.permTable := ⟨s.permTable_length, hv⟩
    obtain ⟨e, he, hp⟩ := verifiedTable_surjective ht (c := v - 1) (by omega)
    rw [Nat.sub_add_cancel h1] at hp
    refine ⟨e, s.permTable_length ▸ he, s.permTable_getElem e he ▸ hp, fun e' he' hp' => ?_⟩
    have hlt : e' < s.permTable.length := s.permTable_length.symm ▸ he'
    exact verifiedTable_getElem_inj ht hlt he (by rw [s.permTable_getElem, hp', hp])
  · intro h
    refine verifyTable_of_forall_mem s.permTable_length fun v h1 h2 => ?_
    obtain ⟨e, he, hp, -⟩ := h v h1 h2
    exact List.mem_map.2 ⟨s.permAt e, s.permAt_mem_permTable he, hp⟩

/-! ### The columns of a remapped row -/

theorem physicalColumn_eq_some_iff {p : Byte} {c : Nat} : physicalColumn p = some c ↔ p.toNat = c + 1 := by
  rw [physicalColumn]
  cases p.toNat <;> simp

/-- An entry of a verified active table is in 1 to 128 (R160). -/
theorem State.permActAt_range {s : State} (h : verifiedTable s.permAct) {e : Nat} (he : e < 128) :
    1 ≤ (s.permActAt e).toNat ∧ (s.permActAt e).toNat ≤ 128 := by
  have hlt : e < s.permAct.length := h.1.symm ▸ he
  rw [s.permActAt_of_lt e hlt]
  exact ((verifyTable_iff _).1 h.2).1 _ (List.getElem_mem hlt)

theorem State.permActAt_inj {s : State} (h : verifiedTable s.permAct) {e e' : Nat} (he : e < 128) (he' : e' < 128)
    (heq : (s.permActAt e).toNat = (s.permActAt e').toNat) : e = e' := by
  have hlt : e < s.permAct.length := h.1.symm ▸ he
  have hlt' : e' < s.permAct.length := h.1.symm ▸ he'
  rw [s.permActAt_of_lt e hlt, s.permActAt_of_lt e' hlt'] at heq
  exact verifiedTable_getElem_inj h hlt hlt' heq

/-- Column `PERM_ACT[e] - 1` of a remapped row is column `e` of the row: the copy of `e` names it, and no other copy
does (R161 (a)). -/
theorem State.remapRow_getElem? {s : State} (h : verifiedTable s.permAct) {init row : BlockRow}
    (hinit : init.length = 128) (hrow : row.length = 128) {e : Nat} (he : e < 128) :
    (remapRow s.permActAt init row)[(s.permActAt e).toNat - 1]? = row[e]? := by
  obtain ⟨h1, h2⟩ := s.permActAt_range h he
  have hc : (s.permActAt e).toNat - 1 < init.length := by omega
  rcases moveColumns_getElem? (t := s.permActAt) (row := row) (List.range 128) init _ hc with
    ⟨hnone, -⟩ | ⟨e', he', hp, hcell⟩
  · exact absurd (physicalColumn_eq_some_iff.2 (Nat.sub_add_cancel h1).symm) (hnone e (List.mem_range.2 he))
  · rw [physicalColumn_eq_some_iff, Nat.sub_add_cancel h1] at hp
    obtain rfl : e' = e := s.permActAt_inj h (List.mem_range.1 he') he hp
    have hlt : e' < row.length := hrow.symm ▸ he
    rw [remapRow, hcell, List.getD_eq_getElem row _ hlt, List.getElem?_eq_getElem hlt]

/-! ### What the operations answer -/

theorem exec_verifyTable (s : State) :
    exec .verifyTable s = .next (s.setWork { s.work with verified := some (verifyTable s.permTable) }) := rfl

theorem exec_remap (s : State) :
    exec .remap s = .next (s.setWork { s.work with blk := s.remapBlock s.work.blk }) := rfl

end Sys2Proof.Machine
end

section
/-! The obligations on ChannelRemapper. -/

namespace Sys2Proof.Machine

/-- Settles O36: the state VERIFY_TABLE answers, and what its answer says of the staging table. -/
theorem verifyTableCompletes : Obligations.VerifyTableCompletes := fun s =>
  ⟨verifyTable s.permTable, exec_verifyTable s, rfl, s.verifyTable_permTable_iff⟩

/-- Settles O37: each row of the block is remapped alone, and the copy of column `e` is the one that fills its output
column. -/
theorem remapCompletes : Obligations.RemapCompletes := by
  intro s ht hrows
  refine ⟨s.remapBlock s.work.blk, exec_remap s, rfl, s.remapBlock_length _, fun r hr => ?_⟩
  have hr' : r < s.work.blk.length := s.remapBlock_length _ ▸ hr
  rw [List.getElem?_eq_getElem hr, List.getElem?_eq_getElem hr', Option.getD_some, Option.getD_some,
    s.remapBlock_getElem _ r hr']
  refine ⟨by rw [remapRow_length, freeRow_length], fun e he => ?_⟩
  exact s.remapRow_getElem? ht (freeRow_length ..) (hrows _ (List.getElem_mem hr')) he

end Sys2Proof.Machine
end

section
/-! SUPPORT. The four commands as equations: NOP and the reserved codes, DECODE and POLL by what STATUS says, the end
marker of POLL, CONFIGURE with a good source (R83, R170 to R175). -/

namespace Sys2Proof.Machine

variable {s : State}

/-! ### NOP and the reserved codes -/

/-- A CMD value with the code of NOP or with a reserved code runs nothing (R83, R170). -/
theorem runCmd_of_inert (s : State) {v : Reg32} (hv : v.toNat % 256 = 0 ∨ 4 ≤ v.toNat % 256) : runCmd s v = .next s := by
  rcases decodeCmd_of_low_byte v with ⟨-, hd⟩ | ⟨hn, -⟩ | ⟨hn, -⟩ | ⟨hn, -⟩ | ⟨-, hd⟩
  · rw [runCmd, decode, hd]; rfl
  · omega
  · omega
  · omega
  · rw [runCmd, decode, hd]

/-- The step of a write to CMD. -/
theorem step_wr_cmd {v : Reg32} {rest : List Request} (h : s.pending = .access (.wr regCmd v) :: rest) :
    step s = runCmd (s.take rest) v := by
  rw [step_cons h, serve, serveAccess, if_pos rfl]

/-! ### DECODE and POLL by STATUS -/

theorem exec_decode_of_unconfigured (hc : s.status.configured = false) : exec .decode s = .next (s.setOutcome .none) := by
  change execDecode s = _
  simp [execDecode, hc]

theorem exec_decode_of_fatal (hc : s.status.configured = true) (hf : s.status.fatal = true) :
    exec .decode s = .next (s.setOutcome .exceededMaxRows) := by
  change execDecode s = _
  simp [execDecode, hc, hf]

theorem exec_poll_of_unconfigured (hc : s.status.configured = false) : exec .poll s = .next (s.setOutcome .none) := by
  change execPoll s = _
  simp [execPoll, hc]

/-- After the end marker POLL reports NONE, FATAL or not (R175). -/
theorem exec_poll_of_done (hd : s.status.done = true) : exec .poll s = .next (s.setOutcome .none) := by
  change execPoll s = _
  simp [execPoll, hd]

theorem exec_poll_of_fatal (hc : s.status.configured = true) (hd : s.status.done = false) (hf : s.status.fatal = true) :
    exec .poll s = .next (s.setOutcome .exceededMaxRows) := by
  change execPoll s = _
  simp [execPoll, hc, hd, hf]

theorem exec_poll_of_ready (hs : readyToDecode s) (hd : s.status.done = false) :
    exec .poll s = .next (decodeBody s).markEnd := by
  obtain ⟨hc, hf⟩ := hs
  change execPoll s = _
  simp [execPoll, hc, hd, hf]

/-! ### The end marker -/

theorem State.markEnd_of_endOfData (h : s.outcome = .endOfData) : s.markEnd = s.setDone := if_pos h

theorem State.markEnd_of_ne_endOfData (h : s.outcome ≠ .endOfData) : s.markEnd = s := if_neg h

/-- A POLL that reports END_OF_DATA leaves DONE set (R175). -/
theorem execPoll_done_of_endOfData {t : State} (h : execPoll s = .next t) (hout : t.outcome = .endOfData) :
    t.status.done = true := by
  rcases execPoll_cases s with ⟨-, he⟩ | ⟨-, -, -, he⟩ | ⟨-, -, -, he⟩ <;> rw [he] at h <;> cases h
  · cases hout
  · cases hout
  · rw [State.markEnd_outcome] at hout
    rw [State.markEnd_of_endOfData hout]
    rfl

/-! ### CONFIGURE -/

/-- CONFIGURE with a source that is there and a table that passes (R171). -/
theorem exec_configure_of_good_source (h0 : s.nbytes ≠ 0#32) (hcap : s.nbytes.toNat ≤ Config.bytebufCap)
    (ht : verifyTable s.permTable = true) :
    exec .configure s =
      .next (s.softReset.install (wordStream s.byteAt (s.nbytes.toNat / 2)) s.permTable) := by
  change Host.Outcome.next (configureWith Config.bytebufCap s) = _
  rcases configureWith_cases Config.bytebufCap s with ⟨hbad, -⟩ | ⟨-, -, -, he⟩
  · rcases hbad with hbad | hbad | hbad
    · exact absurd hbad h0
    · omega
    · exact absurd (ht.symm.trans hbad) nofun
  · rw [he]

end Sys2Proof.Machine
end

section
/-! The obligations on NOP, on CONFIGURE's success, and on POLL beside DECODE. -/

namespace Sys2Proof.Machine

/-- Settles O38. -/
theorem nopChangesNothing : Obligations.NopChangesNothing :=
  ⟨fun _ => rfl, fun s _ rest hp hv => (step_wr_cmd hp).trans (runCmd_of_inert (s.take rest) hv)⟩

/-- Settles O39: what `State.install` stores, Word by Word and entry by entry. -/
theorem configureInstallsTheSource : Obligations.ConfigureInstallsTheSource := by
  intro s h0 hcap ht
  have hlen := wordStream_length s.byteAt (s.nbytes.toNat / 2)
  refine ⟨_, exec_configure_of_good_source h0 hcap ht, rfl, rfl, ?_, hlen, fun i hi => ?_, s.permTable_length,
    fun e he => ?_, rfl, rfl, rfl, rfl⟩
  · have hbytes := s.nbytes.isLt
    rw [State.install_nwords, hlen, BitVec.toNat_ofNat]
    omega
  · refine ⟨readWord s.byteAt i, ?_, readWord_toNat s.byteAt i⟩
    rw [State.install_words, List.getElem?_eq_getElem (hlen.symm ▸ hi), wordStream_getElem]
  · have hlt : e < s.permTable.length := s.permTable_length.symm ▸ he
    rw [State.install_permAct, List.getElem?_eq_getElem hlt, s.permTable_getElem e hlt]

/-- Settles O42: each path of DECODE and POLL that STATUS closes. -/
theorem nothingIsDecodedWhenNotReady : Obligations.NothingIsDecodedWhenNotReady := fun _ =>
  ⟨fun hc => ⟨exec_decode_of_unconfigured hc, exec_poll_of_unconfigured hc⟩, fun _ hd => exec_poll_of_done hd,
    fun hc hf => ⟨exec_decode_of_fatal hc hf, fun hd => exec_poll_of_fatal hc hd hf⟩⟩

/-- Settles O50: POLL runs the DECODE_BODY of DECODE, and the marker is set by its outcome alone. -/
theorem pollDeliversWhatDecodeDelivers : Obligations.PollDeliversWhatDecodeDelivers := by
  intro s hs hd
  refine ⟨decodeBody s, exec_decode_of_ready hs, ?_⟩
  rw [exec_poll_of_ready hs hd]
  by_cases hout : (decodeBody s).outcome = .endOfData
  · rw [State.markEnd_of_endOfData hout, if_pos hout]
    rfl
  · rw [State.markEnd_of_ne_endOfData hout, if_neg hout]

/-- Settles O51: the POLL that reports END_OF_DATA leaves DONE set, and DONE closes the next POLL. -/
theorem endMarkerIsEmittedOnce : Obligations.EndMarkerIsEmittedOnce := by
  intro s t u h hout hstatus
  exact exec_poll_of_done (hstatus ▸ execPoll_done_of_endOfData h hout)

end Sys2Proof.Machine
end

section
/-! SUPPORT. The chain of links of one trigger (R172, R173): a chain from a readable header exists, the loop over the
links walks it, and its last link decides how DECODE_BODY ends. -/

namespace Sys2Proof.Machine

variable {s : State}

/-! ### MAKE_LINK from a readable header, by outcome -/

theorem State.makeLink_of_complete {pos : Nat} (h : (s.makeLink pos).out = .complete) :
    (s.makeLink pos).next + 4 ≤ s.numWords := by
  rcases (s.makeLink_cases pos).2 with ⟨h', -⟩ | ⟨h', -⟩ | ⟨-, -, hnext, -⟩ | ⟨h', -⟩ | ⟨h', -⟩
  · cases h.symm.trans h'
  · cases h.symm.trans h'
  · exact hnext
  · cases h.symm.trans h'
  · cases h.symm.trans h'

theorem State.makeLink_of_exceeded {pos : Nat} (h : (s.makeLink pos).out = .exceeded) :
    s.maxRows.toNat < rowCount (s.makeLink pos).buf := by
  rcases (s.makeLink_cases pos).2 with ⟨h', -⟩ | ⟨-, -, hrows⟩ | ⟨h', -⟩ | ⟨h', -⟩ | ⟨h', -⟩
  · cases h.symm.trans h'
  · exact hrows
  · cases h.symm.trans h'
  · cases h.symm.trans h'
  · cases h.symm.trans h'

/-- A truncated link has taken its tail package, which starts at `fail`, to the end of the data (R122, R124). -/
theorem State.makeLink_of_truncated {pos : Nat} (hpos : pos + 4 ≤ s.numWords)
    (h : (s.makeLink pos).out = .truncated) :
    seekNext s.wordAt s.numWords (s.makeLink pos).fail = .endOfData ∧ (s.makeLink pos).fail + 4 ≤ s.numWords ∧
      (s.makeLink pos).next = s.numWords ∧
      ∃ buf, rowCount (append s.wordAt ((s.makeLink pos).fail + 4) s.numWords buf) ≤ s.maxRows.toNat := by
  rcases (s.makeLink_cases pos).2 with ⟨h', -⟩ | ⟨h', -⟩ | ⟨h', -⟩ | ⟨-, hseek, hfail, hnext, hrows, buf, hbuf⟩ |
    ⟨-, hlt, -⟩
  · cases h.symm.trans h'
  · cases h.symm.trans h'
  · cases h.symm.trans h'
  · exact ⟨hseek, hfail, hnext, buf, hbuf ▸ hrows⟩
  · omega

/-! ### Chains -/

theorem linkChain_cons_append {pos : Nat} {r last : LinkResult} {before : List LinkResult} :
    LinkChain s pos (r :: before ++ [last]) ↔
      r = s.makeLink pos ∧ r.out = .complete ∧ LinkChain s r.next (before ++ [last]) := by
  cases before <;> rfl

/-- From a readable header on there is a chain that ends at its first link that is not `Complete`, or after `left`
links that are (R172). -/
theorem exists_linkChain (left : Nat) {pos : Nat} (hpos : pos + 4 ≤ s.numWords) :
    ∃ before last, LinkChain s pos (before ++ [last]) ∧
      (∀ r ∈ before, r.out = .complete ∧ r.next + 4 ≤ s.numWords) ∧
      (before.length = left ∨ before.length < left ∧ last.out ≠ .complete) := by
  induction left generalizing pos with
  | zero => exact ⟨[], s.makeLink pos, rfl, nofun, .inl rfl⟩
  | succ left ih =>
    by_cases hout : (s.makeLink pos).out = .complete
    · have hnext := State.makeLink_of_complete hout
      obtain ⟨before, last, hchain, hbefore, hlen⟩ := ih hnext
      refine ⟨s.makeLink pos :: before, last, linkChain_cons_append.2 ⟨rfl, hout, hchain⟩,
        List.forall_mem_cons.2 ⟨⟨hout, hnext⟩, hbefore⟩, ?_⟩
      rw [List.length_cons]
      exact hlen.imp (congrArg (· + 1)) fun ⟨hlt, hne⟩ => ⟨Nat.succ_lt_succ hlt, hne⟩
    · exact ⟨[], s.makeLink pos, rfl, nofun, .inr ⟨Nat.succ_pos left, hout⟩⟩

/-- A reserved field that is not zero ends the chain at its first link (R110, R122 (g)). -/
theorem LinkChain.of_corrupt_start {before : List LinkResult} {last : LinkResult} {pos : Nat}
    (h : LinkChain s pos (before ++ [last])) (hpos : pos + 4 ≤ s.numWords) (hres : field32 s.wordAt (pos + 2) ≠ 0#32) :
    before = [] ∧ last = ⟨[], pos, pos, .corrupt⟩ := by
  have hlink : s.makeLink pos = ⟨[], pos, pos, .corrupt⟩ :=
    makeLink_of_corruptStream (seekNext_eq_corruptStream_iff.2 ⟨hpos, hres⟩)
  cases before with
  | nil => exact ⟨rfl, Eq.trans h hlink⟩
  | cons r before =>
    obtain ⟨rfl, hout, -⟩ := linkChain_cons_append.1 h
    rw [hlink] at hout
    cases hout

/-- The last link of a chain starts at a readable header, and the loop over the links gets there with the links before
it finished. -/
theorem LinkChain.exists_last_start {before : List LinkResult} {last : LinkResult} {pos : Nat}
    (h : LinkChain s pos (before ++ [last])) (hpos : pos + 4 ≤ s.numWords) (left : Nat) (done : List LinkResult) :
    ∃ p, last = s.makeLink p ∧ p + 4 ≤ s.numWords ∧
      decodeLinks s (before.length + left) pos done = decodeLinks s left p (done ++ before) := by
  induction before generalizing pos done with
  | nil => exact ⟨pos, h, hpos, by rw [List.length_nil, Nat.zero_add, List.append_nil]⟩
  | cons r before ih =>
    obtain ⟨rfl, hout, hrest⟩ := linkChain_cons_append.1 h
    obtain ⟨p, hlast, hp, hwalk⟩ := ih hrest (State.makeLink_of_complete hout) (done ++ [s.makeLink pos])
    refine ⟨p, hlast, hp, ?_⟩
    rw [List.length_cons, Nat.add_right_comm, decodeLinks_succ, hout]
    dsimp only
    rw [hwalk, List.append_assoc, List.singleton_append]

/-! ### DECODE_BODY along the chain at CURSOR -/

theorem decodeBody_of_failed (hn : s.cursor.toNat + 4 ≤ s.numWords) {x : OutcomeCode} {p : Nat}
    {done : List LinkResult} (h : decodeLinks s 4 s.cursor.toNat [] = .failed x p done) :
    decodeBody s = (s.noteLinks done).raise x p := by
  rw [decodeBody, if_neg (Nat.not_lt.2 hn), h]

theorem decodeBody_of_finished (hn : s.cursor.toNat + 4 ≤ s.numWords) {p : Nat} {done : List LinkResult}
    (h : decodeLinks s 4 s.cursor.toNat [] = .finished p done) :
    decodeBody s = (s.noteLinks done).deliver (s.triggerBlock done) p := by
  rw [decodeBody, if_neg (Nat.not_lt.2 hn), h]

section
variable {before : List LinkResult} {last : LinkResult} (hn : s.cursor.toNat + 4 ≤ s.numWords)
  (h : LinkChain s s.cursor.toNat (before ++ [last]))
include hn h

/-- The loop of DECODE_BODY at the last link of the chain. -/
theorem LinkChain.decodeLinks_last (hlen : before.length < 4) :
    ∃ p, last = s.makeLink p ∧ p + 4 ≤ s.numWords ∧
      decodeLinks s 4 s.cursor.toNat [] = decodeLinks s (3 - before.length + 1) p before := by
  have hfour : before.length + (3 - before.length + 1) = 4 := by omega
  exact hfour ▸ h.exists_last_start hn (3 - before.length + 1) []

theorem decodeBody_of_corrupt (hlen : before.length < 4) (hout : last.out = .corrupt) :
    decodeBody s = (s.noteLinks before).raise .corruptStream last.fail := by
  obtain ⟨p, rfl, -, hlinks⟩ := LinkChain.decodeLinks_last hn h hlen
  exact decodeBody_of_failed hn (by rw [hlinks, decodeLinks_succ, hout])

theorem decodeBody_of_exceeded (hlen : before.length < 4) (hout : last.out = .exceeded) :
    decodeBody s = (s.noteLinks before).raise .exceededMaxRows last.fail := by
  obtain ⟨p, rfl, -, hlinks⟩ := LinkChain.decodeLinks_last hn h hlen
  exact decodeBody_of_failed hn (by rw [hlinks, decodeLinks_succ, hout])

theorem decodeBody_of_truncated (hlen : before.length < 3) (hout : last.out = .truncated) :
    decodeBody s = (s.noteLinks (before ++ [last])).raise .shortRead last.fail := by
  obtain ⟨p, rfl, -, hlinks⟩ := LinkChain.decodeLinks_last hn h (Nat.lt_succ_of_lt hlen)
  have hleft : 3 - before.length ≠ 0 := by omega
  refine decodeBody_of_failed hn ?_
  rw [hlinks, decodeLinks_succ, hout]
  exact if_neg hleft

/-- The loop ends after a fourth link that is `Complete` or `Truncated`. -/
theorem LinkChain.decodeLinks_four (hlen : before.length = 3) (hout : last.out = .complete ∨ last.out = .truncated) :
    decodeLinks s 4 s.cursor.toNat [] = .finished last.next (before ++ [last]) := by
  obtain ⟨p, rfl, -, hlinks⟩ := LinkChain.decodeLinks_last hn h (hlen.trans_lt (by decide))
  rw [hlinks, hlen, decodeLinks_succ]
  rcases hout with hout | hout <;> rw [hout] <;> rfl

theorem decodeBody_of_four (hlen : before.length = 3) (hout : last.out = .complete ∨ last.out = .truncated) :
    decodeBody s = (s.noteLinks (before ++ [last])).deliver (s.triggerBlock (before ++ [last])) last.next :=
  decodeBody_of_finished hn (LinkChain.decodeLinks_four hn h hlen hout)

end

/-- From a readable header at CURSOR on there is a chain of at most four links, and DECODE_BODY ends as its last link
says (R172, R173). -/
theorem decodeBody_ends (hn : s.cursor.toNat + 4 ≤ s.numWords) :
    ∃ before p, p + 4 ≤ s.numWords ∧ LinkChain s s.cursor.toNat (before ++ [s.makeLink p]) ∧
      (∀ r ∈ before, r.out = .complete ∧ r.next + 4 ≤ s.numWords) ∧
      ((before.length < 4 ∧ (s.makeLink p).out = .corrupt ∧
          decodeBody s = (s.noteLinks before).raise .corruptStream (s.makeLink p).fail) ∨
        (before.length < 4 ∧ (s.makeLink p).out = .exceeded ∧
          decodeBody s = (s.noteLinks before).raise .exceededMaxRows (s.makeLink p).fail) ∨
        (before.length < 3 ∧ (s.makeLink p).out = .truncated ∧
          decodeBody s = (s.noteLinks (before ++ [s.makeLink p])).raise .shortRead (s.makeLink p).fail) ∨
        (before.length = 3 ∧ ((s.makeLink p).out = .complete ∨ (s.makeLink p).out = .truncated) ∧
          decodeBody s = (s.noteLinks (before ++ [s.makeLink p])).deliver
            (s.triggerBlock (before ++ [s.makeLink p])) (s.makeLink p).next)) := by
  obtain ⟨before, last, hchain, hbefore, hlen⟩ := exists_linkChain 3 hn
  obtain ⟨p, rfl, hp, -⟩ := hchain.exists_last_start hn 0 []
  have hfour : before.length < 4 := by omega
  refine ⟨before, p, hp, hchain, hbefore, ?_⟩
  cases hout : (s.makeLink p).out with
  | corrupt => exact .inl ⟨hfour, rfl, decodeBody_of_corrupt hn hchain hfour hout⟩
  | exceeded => exact .inr (.inl ⟨hfour, rfl, decodeBody_of_exceeded hn hchain hfour hout⟩)
  | complete =>
    have hthree : before.length = 3 := hlen.resolve_right fun ⟨_, hne⟩ => hne hout
    exact .inr (.inr (.inr ⟨hthree, .inl rfl, decodeBody_of_four hn hchain hthree (.inl hout)⟩))
  | truncated =>
    rcases hlen with hthree | ⟨hlt, -⟩
    · exact .inr (.inr (.inr ⟨hthree, .inr rfl, decodeBody_of_four hn hchain hthree (.inr hout)⟩))
    · exact .inr (.inr (.inl ⟨hlt, rfl, decodeBody_of_truncated hn hchain hlt hout⟩))

end Sys2Proof.Machine
end

section
/-! SUPPORT. What a delivered block and a noted link leave in the registers (R30, R172), and the tail package on which
SHORT_READ repeats (R174). -/

namespace Sys2Proof.Machine

variable {s : State}

/-- LINK_ROWS holds the row count of a finished link, which MAX_ROWS bounds (R30, R126). -/
theorem linkRowsOf_toNat {r : LinkResult} (h : FinishedLink s r) : (linkRowsOf r).toNat = r.buf.length / 25 := by
  have hrows : r.buf.length / 25 ≤ s.maxRows.toNat := h.2
  rw [linkRowsOf, BitVec.toNat_ofNat, rowCount]
  omega

/-- LINK_ROWS of link i as a number: the row count of the i-th finished link, or 0. -/
theorem perLinkOf_linkRowsOf_toNat {done : List LinkResult} (h : ∀ r ∈ done, FinishedLink s r) (i : Fin 4) :
    ((perLinkOf linkRowsOf 0#32 done).get i).toNat = ((done[i.val]?).map fun r => r.buf.length / 25).getD 0 := by
  rw [perLinkOf_get]
  cases hd : done[i.val]? with
  | none => rfl
  | some r => exact linkRowsOf_toNat (h r (List.mem_of_getElem? hd))

theorem State.triggerBlock_length (s : State) (done : List LinkResult) :
    (s.triggerBlock done).length = blockRows (rowsOfLinks done) := by
  unfold State.triggerBlock
  split <;> simp

/-- NROWS holds the row count of a delivered block (R30). -/
theorem State.deliver_triggerBlock_nrows_toNat {done : List LinkResult} (h : ∀ r ∈ done, FinishedLink s r) (t : State)
    (p : Nat) : (t.deliver (s.triggerBlock done) p).nrows.toNat = (s.triggerBlock done).length := by
  have hlen := State.triggerBlock_length_le h
  rw [State.deliver_nrows, BitVec.toNat_ofNat]
  omega

/-- Where the loop over the links finishes, it is inside the stream and every link kept the row bound. -/
theorem decodeLinks_finished {left pos p : Nat} {done : List LinkResult} (hpos : pos + 4 ≤ s.numWords)
    (h : decodeLinks s left pos [] = .finished p done) : p ≤ s.numWords ∧ ∀ r ∈ done, FinishedLink s r := by
  rcases decodeLinks_cases s left pos [] hpos nofun with ⟨x, q, d, he, -⟩ | ⟨q, d, he, -, hq, -, hd⟩
  · cases h.symm.trans he
  · cases h.symm.trans he
    exact ⟨hq, hd⟩

/-! ### The tail package -/

/-- A longer link buffer has no fewer rows. -/
theorem rowCount_append_nil_le (W : Nat → Word) (start stop : Nat) (buf : List Word) :
    rowCount (append W start stop []) ≤ rowCount (append W start stop buf) := by
  rw [rowCount, rowCount, append, append, List.length_append, List.length_append]
  exact Nat.div_le_div_right (Nat.add_le_add_right (Nat.zero_le _) _)

/-- A link that starts at the tail package is the tail package (R124). -/
theorem State.makeLink_of_tail {pos : Nat} (hpos : pos + 4 ≤ s.numWords)
    (hseek : seekNext s.wordAt s.numWords pos = .endOfData)
    (hrows : rowCount (append s.wordAt (pos + 4) s.numWords []) ≤ s.maxRows.toNat) :
    s.makeLink pos = ⟨append s.wordAt (pos + 4) s.numWords [], s.numWords, pos, .truncated⟩ := by
  rw [State.makeLink, Machine.makeLink, makeLinkFrom_succ, hseek]
  dsimp only
  rw [if_pos hpos, if_neg (Nat.not_lt.2 hrows)]

/-- SHORT_READ stops at a tail package whose rows fit in MAX_ROWS (R174). -/
theorem decodeBody_shortRead (h : (decodeBody s).outcome = .shortRead) :
    ∃ done p, decodeBody s = (s.noteLinks done).raise .shortRead p ∧ p + 4 ≤ s.numWords ∧
      seekNext s.wordAt s.numWords p = .endOfData ∧
      rowCount (append s.wordAt (p + 4) s.numWords []) ≤ s.maxRows.toNat := by
  have hn : s.cursor.toNat + 4 ≤ s.numWords := by
    rcases decodeBody_cases s with ⟨-, he⟩ | ⟨hn, -⟩ | ⟨hn, -⟩
    · rw [he] at h; cases h
    · exact hn
    · exact hn
  obtain ⟨before, p, hp, -, -, hends⟩ := decodeBody_ends hn
  rcases hends with ⟨-, -, he⟩ | ⟨-, -, he⟩ | ⟨-, hout, he⟩ | ⟨-, -, he⟩
  · rw [he] at h; cases h
  · rw [he] at h; cases h
  · obtain ⟨hseek, hfail, -, buf, hrows⟩ := State.makeLink_of_truncated hp hout
    exact ⟨_, _, he, hfail, hseek, (rowCount_append_nil_le ..).trans hrows⟩
  · rw [he] at h; cases h

/-- With CURSOR at such a tail package DECODE_BODY reports SHORT_READ there, with the tail as a truncated link 0. -/
theorem decodeBody_of_tail (hn : s.cursor.toNat + 4 ≤ s.numWords)
    (hseek : seekNext s.wordAt s.numWords s.cursor.toNat = .endOfData)
    (hrows : rowCount (append s.wordAt (s.cursor.toNat + 4) s.numWords []) ≤ s.maxRows.toNat) :
    (decodeBody s).outcome = .shortRead ∧ (decodeBody s).cursor = s.cursor ∧
      (decodeBody s).linkStat = ⟨.truncated, .notRun, .notRun, .notRun⟩ := by
  have hchain : LinkChain s s.cursor.toNat ([] ++ [s.makeLink s.cursor.toNat]) := rfl
  rw [State.makeLink_of_tail hn hseek hrows] at hchain
  rw [decodeBody_of_truncated hn hchain (by decide) rfl]
  exact ⟨rfl, (BitVec.ofNat_toNat ..).trans (BitVec.setWidth_eq _), rfl⟩

end Sys2Proof.Machine
end

section
/-! The obligations on how a trigger ends, and on SHORT_READ. -/

namespace Sys2Proof.Machine

/-- Settles O48: four finished links are DECODE_BODY's delivery, and BLOCK sets no end marker. -/
theorem blockIsDelivered : Obligations.BlockIsDelivered := by
  intro s r0 r1 r2 r3 hs hn hchain hout blk
  change LinkChain s s.cursor.toNat ([r0, r1, r2] ++ [r3]) at hchain
  have ⟨_, hout0, _, hout1, _, hout2, _⟩ := hchain
  obtain ⟨hnext, hdone⟩ := decodeLinks_finished hn (LinkChain.decodeLinks_four hn hchain rfl hout)
  have hbody := decodeBody_of_four hn hchain rfl hout
  have hnrows := State.deliver_triggerBlock_nrows_toNat hdone (s.noteLinks [r0, r1, r2, r3]) r3.next
  refine ⟨_, (exec_decode_of_ready hs).trans (congrArg _ hbody), rfl, State.toNat_ofNat_of_le_numWords hnext, ?_, rfl,
    hnrows.symm, ?_, perLinkOf_linkRowsOf_toNat hdone, rfl, rfl, rfl, rfl, rfl, fun hd => ?_⟩
  · refine (hnrows.trans (s.triggerBlock_length _)).trans ?_
    change max (max (unpackLink r0.buf).length (unpackLink r1.buf).length)
      (max (unpackLink r2.buf).length (unpackLink r3.buf).length) = _
    simp only [unpackLink_length, rowCount]
  · change PerLink.mk (linkStatOf r0) (linkStatOf r1) (linkStatOf r2) (linkStatOf r3) = _
    simp only [linkStatOf, hout0, hout1, hout2, if_true]
  · rw [exec_poll_of_ready hs hd, hbody]
    exact congrArg _ (State.markEnd_of_ne_endOfData nofun)

/-- Settles O49: the chain DECODE_BODY walks, and its end by the reserved field at CURSOR. -/
theorem everyTriggerEndsInAnOutcome : Obligations.EveryTriggerEndsInAnOutcome := by
  intro s hs hn
  obtain ⟨before, p, hp, hchain, hbefore, hends⟩ := decodeBody_ends hn
  refine ⟨before, s.makeLink p, decodeBody s, exec_decode_of_ready hs, hchain, hbefore, fun hout => ?_, ?_⟩
  · obtain ⟨-, hfail, hnext, -⟩ := State.makeLink_of_truncated hp hout
    exact ⟨hnext, hfail⟩
  intro reserved
  by_cases hres : reserved = 0#32
  · right
    rcases hends with ⟨-, -, he⟩ | ⟨hlen, hout, he⟩ | ⟨hlen, hout, he⟩ | ⟨hlen, hout, he⟩
    · exact absurd hres (decodeBody_outcome_corruptStream (he ▸ rfl)).2
    · exact .inl ⟨hres, hlen, hout, State.makeLink_of_exceeded hout, he ▸ rfl⟩
    · exact .inr (.inl ⟨hres, hlen, hout, he ▸ rfl⟩)
    · exact .inr (.inr ⟨hres, hlen, hout, he ▸ rfl⟩)
  · obtain ⟨hnil, hlast⟩ := hchain.of_corrupt_start hn hres
    have hout : (s.makeLink p).out = .corrupt := hlast ▸ rfl
    have hbody := decodeBody_of_corrupt hn hchain (hnil ▸ by decide) hout
    exact .inl ⟨hres, hnil, hout, hlast ▸ rfl, hbody ▸ rfl⟩

/-- Settles O55: SHORT_READ leaves CURSOR at the tail package, and the stream, the sizes and FATAL as they were. -/
theorem shortReadRepeats : Obligations.ShortReadRepeats := by
  intro s t hs h hout
  rw [exec_decode_of_ready hs] at h
  cases h
  obtain ⟨done, p, hbody, hp, hseek, hrows⟩ := decodeBody_shortRead hout
  rw [hbody]
  have hcursor : ((s.noteLinks done).raise .shortRead p).cursor.toNat = p :=
    State.toNat_ofNat_of_le_numWords (s := s) (by omega)
  have hready : readyToDecode ((s.noteLinks done).raise .shortRead p) := by
    obtain ⟨hc, hf⟩ := hs
    exact ⟨hc, by simp [Status.afterRaise, hf]⟩
  exact ⟨_, exec_decode_of_ready hready,
    decodeBody_of_tail (hcursor.symm ▸ hp) (hcursor.symm ▸ hseek) (hcursor.symm ▸ hrows)⟩

end Sys2Proof.Machine
end

section
/-! SUPPORT. What DECODE reads (R176): two states with equal operands give equal links, since no link reads a Word at or
past NWORDS, and equal blocks, since a verified table leaves no free cell in an output row. -/

namespace Sys2Proof.Machine

/-- The loop over the links reads the state through MAKE_LINK alone. -/
theorem decodeLinks_congr {s t : State} (h : ∀ pos, s.makeLink pos = t.makeLink pos) (left pos : Nat)
    (done : List LinkResult) : decodeLinks s left pos done = decodeLinks t left pos done := by
  induction left generalizing pos done with
  | zero => rfl
  | succ left ih =>
    rw [decodeLinks_succ, decodeLinks_succ, h]
    cases (t.makeLink pos).out with
    | corrupt => rfl
    | exceeded => rfl
    | complete => exact ih ..
    | truncated => rfl

/-- A held entry of PERM_ACT is not a free value, so equal tables agree on it (R35, R42). -/
theorem State.permActAt_congr {s t : State} (hact : s.permAct = t.permAct) {e : Nat} (he : e < s.permAct.length) :
    s.permActAt e = t.permActAt e := by
  rw [s.permActAt_of_lt e he, t.permActAt_of_lt e (hact ▸ he)]
  exact List.getElem_of_eq hact he

/-- A row remapped with a verified table does not show what it was built over (R161 (a)). -/
theorem State.remapRow_congr {s t : State} (hact : s.permAct = t.permAct) (ht : verifiedTable s.permAct)
    {init init' row : BlockRow} (hinit : init.length = 128) (hinit' : init'.length = 128) (hrow : row.length = 128) :
    remapRow s.permActAt init row = remapRow t.permActAt init' row := by
  have ht' : verifiedTable t.permAct := hact ▸ ht
  refine List.ext_getElem? fun c => ?_
  by_cases hc : c < 128
  · obtain ⟨e, he, hp⟩ := s.exists_physicalColumn ht hc
    have hentry : s.permActAt e = t.permActAt e := State.permActAt_congr hact (ht.1.symm ▸ he)
    have hcolumn : (s.permActAt e).toNat - 1 = c := Nat.sub_eq_of_eq_add (physicalColumn_eq_some_iff.1 hp)
    have hcell := s.remapRow_getElem? ht hinit hrow he
    have hcell' := t.remapRow_getElem? ht' hinit' hrow he
    rw [hcolumn] at hcell
    rw [← hentry, hcolumn] at hcell'
    exact hcell.trans hcell'.symm
  · rw [List.getElem?_eq_none (by rw [remapRow_length]; omega), List.getElem?_eq_none (by rw [remapRow_length]; omega)]

theorem State.remapBlock_congr {s t : State} (hact : s.permAct = t.permAct) (ht : verifiedTable s.permAct)
    {blk : List BlockRow} (hblk : ∀ row ∈ blk, row.length = 128) : s.remapBlock blk = t.remapBlock blk := by
  refine List.ext_getElem (by rw [State.remapBlock_length, State.remapBlock_length]) fun r hr _ => ?_
  rw [State.remapBlock_length] at hr
  rw [s.remapBlock_getElem blk r hr, t.remapBlock_getElem blk r hr]
  exact State.remapRow_congr hact ht (freeRow_length ..) (freeRow_length ..) (hblk _ (List.getElem_mem hr))

section
variable {s t : State} (h : SameDecodeInputs s t)
include h

/-- Every Word below NWORDS is a held one, so the two streams agree there whatever the free values are (R26, R33). -/
theorem SameDecodeInputs.wordAt_eq (hs : Inv s) {i : Nat} (hi : i < s.numWords) : s.wordAt i = t.wordAt i := by
  have hlt : i < s.words.length := hs.wordsLength ▸ hi
  have hlt' : i < t.words.length := h.words ▸ hlt
  rw [s.wordAt_of_lt i hlt, t.wordAt_of_lt i hlt']
  exact List.getElem_of_eq h.words hlt

theorem SameDecodeInputs.numWords_eq : s.numWords = t.numWords := congrArg BitVec.toNat h.nwords

theorem SameDecodeInputs.makeLink_eq (hs : Inv s) (pos : Nat) : s.makeLink pos = t.makeLink pos := by
  rw [State.makeLink, State.makeLink, ← h.numWords_eq, ← h.nominal, ← h.maxRows]
  exact makeLinkFrom_congr (fun i hi => h.wordAt_eq hs hi) ..

theorem SameDecodeInputs.triggerBlock_eq (ht : verifiedTable s.permAct) (done : List LinkResult) :
    s.triggerBlock done = t.triggerBlock done := by
  have hrows : ∀ row ∈ assemble (rowsOfLinks done), row.length = 128 := fun row hrow =>
    (assemble_blockRowOk (rowsOfLinks_ok done) row hrow).1
  rw [State.triggerBlock, State.triggerBlock, ← h.remapEn, State.remapBlock_congr h.permAct ht hrows]

/-- DECODE_BODY on equal operands: the same way out, with the same links, position and block (R176). -/
theorem SameDecodeInputs.decodeBody (hs : Inv s) (ht : verifiedTable s.permAct) :
    SameDecodeResult (decodeBody s) (decodeBody t) := by
  have hlinks : decodeLinks s 4 s.cursor.toNat [] = decodeLinks t 4 t.cursor.toNat [] :=
    h.cursor ▸ decodeLinks_congr (h.makeLink_eq hs) 4 s.cursor.toNat []
  rcases decodeBody_cases s with ⟨hn, he⟩ | ⟨hn, x, p, done, he, hl, -⟩ | ⟨hn, p, done, he, hl, -⟩
  · have hn' : t.cursor.toNat + 4 > t.numWords := h.numWords_eq ▸ h.cursor ▸ hn
    have he' : Machine.decodeBody t = (t.noteLinks []).setOutcome .endOfData := if_pos hn'
    rw [he, he']
    exact ⟨rfl, h.cursor, rfl, rfl, rfl, h.status, rfl⟩
  · have hn' : t.cursor.toNat + 4 ≤ t.numWords := h.numWords_eq ▸ h.cursor ▸ hn
    rw [he, decodeBody_of_failed hn' (hlinks ▸ hl)]
    exact ⟨rfl, rfl, rfl, rfl, rfl, congrArg (Status.afterRaise · x) h.status, rfl⟩
  · have hn' : t.cursor.toNat + 4 ≤ t.numWords := h.numWords_eq ▸ h.cursor ▸ hn
    rw [he, decodeBody_of_finished hn' (hlinks ▸ hl), h.triggerBlock_eq ht]
    exact ⟨rfl, rfl, rfl, rfl, rfl, h.status, rfl⟩

end

/-- Settles O56: both cores are ready, and DECODE is DECODE_BODY on each. -/
theorem decodeIsDeterministic : Obligations.DecodeIsDeterministic := by
  intro s t s' t' hinv hready h hs' ht'
  have hready' : readyToDecode t := by
    rw [readyToDecode, ← h.status]
    exact hready
  rw [exec_decode_of_ready hready] at hs'
  rw [exec_decode_of_ready hready'] at ht'
  cases hs'
  cases ht'
  exact h.decodeBody hinv (hinv.tableVerified hready.1)

end Sys2Proof.Machine
end

section
/-! SUPPORT. What DECODE and POLL can leave, said once for both (R172, R175), the outcomes DECODE_BODY reports and what
it leaves beside them (R191, R195, R199), and what no operation changes (R38, R199, R221). -/

namespace Sys2Proof.Machine

variable {s t : State}

/-! ### DECODE and POLL -/

/-- DECODE and POLL only set OUTCOME, or run DECODE_BODY on a ready core, POLL with its end marker (R172, R175). -/
theorem exec_decode_or_poll_cases (h : exec .decode s = .next t ∨ exec .poll s = .next t) :
    (∃ x, (x = .none ∨ x = .exceededMaxRows) ∧ t = s.setOutcome x) ∨
    (readyToDecode s ∧ (t = decodeBody s ∨ t = (decodeBody s).markEnd)) := by
  rcases h with h | h
  · change execDecode s = .next t at h
    rcases execDecode_cases s with ⟨-, he⟩ | ⟨-, -, he⟩ | ⟨hc, hf, he⟩ <;> rw [he] at h <;> cases h
    · exact .inl ⟨_, .inl rfl, rfl⟩
    · exact .inl ⟨_, .inr rfl, rfl⟩
    · exact .inr ⟨⟨hc, hf⟩, .inl rfl⟩
  · change execPoll s = .next t at h
    rcases execPoll_cases s with ⟨-, he⟩ | ⟨-, -, -, he⟩ | ⟨hc, -, hf, he⟩ <;> rw [he] at h <;> cases h
    · exact .inl ⟨_, .inl rfl, rfl⟩
    · exact .inl ⟨_, .inr rfl, rfl⟩
    · exact .inr ⟨⟨hc, hf⟩, .inr rfl⟩

/-- Where DECODE or POLL reports something else than NONE and EXCEEDED_MAX_ROWS, DECODE_BODY ran and reported it. -/
theorem outcome_of_decode_or_poll (h : exec .decode s = .next t ∨ exec .poll s = .next t) :
    t.outcome = .none ∨ t.outcome = .exceededMaxRows ∨ readyToDecode s ∧ (decodeBody s).outcome = t.outcome := by
  rcases exec_decode_or_poll_cases h with ⟨x, rfl | rfl, rfl⟩ | ⟨hs, rfl | rfl⟩
  · exact .inl rfl
  · exact .inr (.inl rfl)
  · exact .inr (.inr ⟨hs, rfl⟩)
  · exact .inr (.inr ⟨hs, (State.markEnd_outcome _).symm⟩)

/-- POLL adds nothing to a DECODE_BODY that does not reach the end of the data (R175). -/
theorem exec_poll_of_ne_endOfData (hs : readyToDecode s) (hd : s.status.done = false)
    (hout : (decodeBody s).outcome ≠ .endOfData) : exec .poll s = .next (decodeBody s) := by
  rw [exec_poll_of_ready hs hd, State.markEnd_of_ne_endOfData hout]

/-! ### The outcomes of DECODE_BODY -/

theorem decodeBody_of_endOfData (hn : s.cursor.toNat + 4 > s.numWords) :
    decodeBody s = (s.noteLinks []).setOutcome .endOfData := if_pos hn

theorem decodeBody_outcome_endOfData (h : (decodeBody s).outcome = .endOfData) :
    s.cursor.toNat + 4 > s.numWords := by
  rcases decodeBody_cases s with ⟨hn, -⟩ | ⟨-, x, p, done, he, -, -, -, hx, -⟩ | ⟨-, p, done, he, -⟩
  · exact hn
  · obtain rfl : x = .endOfData := by rwa [he] at h
    rcases hx with hx | hx | hx <;> cases hx
  · rw [he] at h; cases h

theorem decodeBody_outcome_ne_configurationError (s : State) : (decodeBody s).outcome ≠ .configurationError := by
  rcases decodeBody_cases s with ⟨-, he⟩ | ⟨-, x, p, done, he, -, -, -, hx, -⟩ | ⟨-, p, done, he, -⟩ <;> rw [he]
  · exact OutcomeCode.noConfusion
  · rcases hx with rfl | rfl | rfl <;> exact OutcomeCode.noConfusion
  · exact OutcomeCode.noConfusion

/-- Beside an outcome that is not BLOCK, DECODE_BODY leaves no block and no transient state (R40, R199). -/
theorem decodeBody_noBlock (h : (decodeBody s).outcome ≠ .block) :
    (decodeBody s).nrows = 0#32 ∧ (decodeBody s).block = [] ∧ (decodeBody s).work = Work.empty := by
  rcases decodeBody_cases s with ⟨-, he⟩ | ⟨-, x, p, done, he, -⟩ | ⟨-, p, done, he, -⟩ <;> rw [he] at h ⊢
  · exact ⟨rfl, rfl, rfl⟩
  · exact ⟨rfl, rfl, rfl⟩
  · exact absurd rfl h

/-- Only EXCEEDED_MAX_ROWS sets a flag (R194, R199). -/
theorem Status.afterRaise_of_ne (f : Status) {x : OutcomeCode} (h : x ≠ .exceededMaxRows) : f.afterRaise x = f := by
  rw [Status.afterRaise, beq_false_of_ne h, Bool.or_false]

/-! ### CONFIGURE -/

/-- CONFIGURE with a source or a table it cannot take is the soft reset and the error (R171, R195). -/
theorem exec_configure_of_bad_source
    (h : s.nbytes = 0#32 ∨ s.nbytes.toNat > Config.bytebufCap ∨ verifyTable s.permTable = false) :
    exec .configure s = .next (s.softReset.setOutcome .configurationError) := by
  change Host.Outcome.next (configureWith Config.bytebufCap s) = _
  rcases configureWith_cases Config.bytebufCap s with ⟨-, he⟩ | ⟨h0, hcap, ht, -⟩
  · rw [he]
  · rcases h with h | h | h
    · exact absurd h h0
    · omega
    · exact absurd (ht.symm.trans h) nofun

/-! ### What no operation changes -/

/-- `t` has what only the host writes, and what the model keeps beside the block, as `s` has it (R38). -/
structure HostInputsKept (s t : State) : Prop where
  bytebuf : t.bytebuf = s.bytebuf
  perm : t.perm = s.perm
  nbytes : t.nbytes = s.nbytes
  remapEn : t.remapEn = s.remapEn
  nominal : t.nominal = s.nominal
  maxRows : t.maxRows = s.maxRows
  pending : t.pending = s.pending
  readData : t.readData = s.readData
  draws : t.draws = s.draws

theorem HostInputsKept.refl (s : State) : HostInputsKept s s := ⟨rfl, rfl, rfl, rfl, rfl, rfl, rfl, rfl, rfl⟩

theorem HostInputsKept.markEnd (h : HostInputsKept s t) : HostInputsKept s t.markEnd := by
  rcases t.markEnd_eq with he | ⟨-, he⟩
  · rwa [he]
  · rw [he]; exact { h with }

theorem decodeBody_hostInputsKept (s : State) : HostInputsKept s (decodeBody s) := by
  rcases decodeBody_cases s with ⟨-, he⟩ | ⟨-, x, p, done, he, -⟩ | ⟨-, p, done, he, -⟩ <;> rw [he]
  · exact { HostInputsKept.refl s with }
  · exact { HostInputsKept.refl s with }
  · exact { HostInputsKept.refl s with }

theorem configureWith_hostInputsKept (cap : Nat) (s : State) : HostInputsKept s (configureWith cap s) := by
  rcases configureWith_cases cap s with ⟨-, he⟩ | ⟨-, -, -, he⟩ <;> rw [he]
  · exact { HostInputsKept.refl s with }
  · exact { HostInputsKept.refl s with }

theorem hostInputsKept_of_decode_or_poll (h : exec .decode s = .next t ∨ exec .poll s = .next t) :
    HostInputsKept s t := by
  rcases exec_decode_or_poll_cases h with ⟨x, -, rfl⟩ | ⟨-, rfl | rfl⟩
  · exact { HostInputsKept.refl s with }
  · exact decodeBody_hostInputsKept s
  · exact (decodeBody_hostInputsKept s).markEnd

theorem exec_hostInputsKept {i : Instr} (h : exec i s = .next t) : HostInputsKept s t := by
  rcases exec_next_cases h with ⟨-, rfl⟩ | ⟨-, rfl⟩ | ⟨-, hd⟩ | ⟨-, hp⟩ | ⟨-, w, rfl⟩
  · exact .refl t
  · exact configureWith_hostInputsKept ..
  · exact hostInputsKept_of_decode_or_poll (.inl hd)
  · exact hostInputsKept_of_decode_or_poll (.inr hp)
  · exact { HostInputsKept.refl s with }

/-- Every operation but CONFIGURE keeps the snapshots and CONFIGURED (R33, R35, R199). -/
theorem exec_bodyKeeps {i : Instr} (hi : i ≠ .configure) (h : exec i s = .next t) : BodyKeeps s t := by
  rcases exec_next_cases h with ⟨-, rfl⟩ | ⟨he, -⟩ | ⟨-, hd⟩ | ⟨-, hp⟩ | ⟨-, w, rfl⟩
  · exact ⟨rfl, rfl, rfl, rfl, id, id⟩
  · exact absurd he hi
  · exact execDecode_keeps hd
  · exact execPoll_keeps hp
  · exact ⟨rfl, rfl, rfl, rfl, id, id⟩

/-- Where an operation other than CONFIGURE leaves CONFIGURATION_ERROR in OUTCOME, it stood there before (R195). -/
theorem exec_outcome_configurationError {i : Instr} (hi : i ≠ .configure) (h : exec i s = .next t)
    (hout : t.outcome = .configurationError) : s.outcome = .configurationError := by
  have not_decode (hd : exec .decode s = .next t ∨ exec .poll s = .next t) : False := by
    rcases outcome_of_decode_or_poll hd with hx | hx | ⟨-, hx⟩
    · cases hx.symm.trans hout
    · cases hx.symm.trans hout
    · exact decodeBody_outcome_ne_configurationError s (hx.trans hout)
  rcases exec_next_cases h with ⟨-, rfl⟩ | ⟨he, -⟩ | ⟨-, hd⟩ | ⟨-, hp⟩ | ⟨-, w, rfl⟩
  · exact hout
  · exact absurd he hi
  · exact (not_decode (.inl hd)).elim
  · exact (not_decode (.inr hp)).elim
  · exact hout

end Sys2Proof.Machine
end

section
/-! SUPPORT. What the diagnostics of a chain of links are: the links before its last one are `Complete` and kept the row
bound, and an error that its last link raises points into the stream (R122, R126, R172). -/

namespace Sys2Proof.Machine

variable {s : State}

/-- A link from a readable header that is `Complete` or `Truncated` kept the row bound (R122, R126). -/
theorem State.makeLink_finishedLink {pos : Nat} (hpos : pos + 4 ≤ s.numWords)
    (h : (s.makeLink pos).out = .complete ∨ (s.makeLink pos).out = .truncated) : FinishedLink s (s.makeLink pos) := by
  refine ⟨h, ?_⟩
  rcases (s.makeLink_cases pos).2 with ⟨h', -⟩ | ⟨h', -⟩ | ⟨-, -, -, -, hrows⟩ | ⟨-, -, -, -, hrows, -⟩ | ⟨-, hlt, -⟩
  · rw [h'] at h; rcases h with h | h <;> cases h
  · rw [h'] at h; rcases h with h | h <;> cases h
  · exact hrows
  · exact hrows
  · omega

/-- The package over the row bound has its header inside the stream (R122, R126). -/
theorem State.makeLink_fail_of_exceeded {pos : Nat} (h : (s.makeLink pos).out = .exceeded) :
    (s.makeLink pos).fail + 4 ≤ s.numWords := by
  rcases (s.makeLink_cases pos).2 with ⟨h', -⟩ | ⟨-, hfail, -⟩ | ⟨h', -⟩ | ⟨h', -⟩ | ⟨h', -⟩
  · cases h.symm.trans h'
  · exact hfail
  · cases h.symm.trans h'
  · cases h.symm.trans h'
  · cases h.symm.trans h'

/-- The links before the last one of a chain are `Complete` and kept the row bound, since each starts at a readable
header. -/
theorem LinkChain.before_complete_finished {before : List LinkResult} {last : LinkResult} {pos : Nat}
    (h : LinkChain s pos (before ++ [last])) (hpos : pos + 4 ≤ s.numWords) :
    ∀ r ∈ before, r.out = .complete ∧ FinishedLink s r := by
  induction before generalizing pos with
  | nil => exact nofun
  | cons r before ih =>
    obtain ⟨rfl, hout, hrest⟩ := linkChain_cons_append.1 h
    exact List.forall_mem_cons.2
      ⟨⟨hout, State.makeLink_finishedLink hpos (.inl hout)⟩, ih hrest (State.makeLink_of_complete hout)⟩

/-- LINKSTAT of link i as a number, where every finished link is `Complete` (R31). -/
theorem perLinkOf_linkStatOf_of_complete {done : List LinkResult} (h : ∀ r ∈ done, r.out = .complete) (i : Fin 4) :
    ((perLinkOf linkStatOf .notRun done).get i).toNat = if i.val < done.length then 1 else 0 := by
  rw [perLinkOf_get]
  by_cases hi : i.val < done.length
  · rw [if_pos hi, List.getElem?_eq_getElem hi, Option.map_some, linkStatOf, if_pos (h _ (List.getElem_mem hi))]
    rfl
  · rw [if_neg hi, List.getElem?_eq_none (Nat.not_lt.1 hi)]
    rfl

/-- LINKSTAT of link i as a number, where a `Truncated` link stands after `Complete` ones (R31). -/
theorem perLinkOf_linkStatOf_of_truncated {before : List LinkResult} {last : LinkResult}
    (h : ∀ r ∈ before, r.out = .complete) (hlast : last.out = .truncated) (i : Fin 4) :
    ((perLinkOf linkStatOf .notRun (before ++ [last])).get i).toNat =
      if i.val < before.length then 1 else if i.val = before.length then 2 else 0 := by
  by_cases hi : i.val = before.length
  · rw [if_neg (Nat.not_lt.2 hi.ge), if_pos hi, perLinkOf_get, hi, List.getElem?_concat_length, Option.map_some,
      linkStatOf, hlast]
    rfl
  · have hsame : (before ++ [last])[i.val]? = before[i.val]? := by
      rw [List.getElem?_append]
      split
      · rfl
      · rw [List.getElem?_eq_none (by rw [List.length_singleton]; omega), List.getElem?_eq_none (by omega)]
    rw [if_neg hi, perLinkOf_get, hsame, ← perLinkOf_get]
    exact perLinkOf_linkStatOf_of_complete h i

end Sys2Proof.Machine
end

section
/-! The obligations on the outcomes of the commands, on what stands beside them, and on what no command changes. -/

namespace Sys2Proof.Machine

/-- Settles O40: CONFIGURE's error is its soft reset, and no other operation sets this outcome or CONFIGURED. -/
theorem configureReportsError : Obligations.ConfigureReportsError :=
  ⟨fun _ _ _ hi h => ⟨exec_outcome_configurationError hi h, (exec_bodyKeeps hi h).configured⟩,
    fun _ hbad => ⟨_, exec_configure_of_bad_source hbad, rfl, rfl, rfl, rfl, rfl, rfl, rfl, rfl, rfl⟩⟩

/-- Settles O43: DECODE_BODY reports END_OF_DATA exactly where it finds no readable header, and POLL then sets DONE. -/
theorem endOfDataIsReported : Obligations.EndOfDataIsReported := by
  refine ⟨fun s t h hout => ?_, fun s hs hn => ?_⟩
  · rcases outcome_of_decode_or_poll h with hx | hx | ⟨hs, hx⟩
    · cases hx.symm.trans hout
    · cases hx.symm.trans hout
    · exact ⟨hs, decodeBody_outcome_endOfData (hx.trans hout)⟩
  · have hbody := decodeBody_of_endOfData hn
    refine ⟨_, (exec_decode_of_ready hs).trans (congrArg _ hbody), rfl, rfl, rfl, rfl, rfl, rfl, fun hd => ?_⟩
    rw [exec_poll_of_ready hs hd, hbody]
    exact congrArg _ (State.markEnd_of_endOfData rfl)

/-- Settles O44: the chain at CURSOR is one `Corrupt` link, which notes no link and sets no flag. -/
theorem corruptStreamIsReported : Obligations.CorruptStreamIsReported := by
  intro s hs hn hres
  have hchain : LinkChain s s.cursor.toNat ([] ++ [s.makeLink s.cursor.toNat]) := rfl
  obtain ⟨-, hlast⟩ := hchain.of_corrupt_start hn hres
  have hbody := decodeBody_of_corrupt hn hchain (by decide) (hlast ▸ rfl)
  rw [hlast] at hbody
  refine ⟨_, (exec_decode_of_ready hs).trans (congrArg _ hbody), rfl, ?_, rfl, rfl, rfl,
    s.status.afterRaise_of_ne nofun, fun hd => ?_⟩
  · exact (BitVec.ofNat_toNat ..).trans (BitVec.setWidth_eq _)
  · rw [exec_poll_of_ne_endOfData hs hd (hbody ▸ nofun), hbody]

/-- Settles O46: the truncated link is noted with the `Complete` ones before it, CURSOR stops at its tail package. -/
theorem shortReadIsReported : Obligations.ShortReadIsReported := by
  intro s before last hs hn hchain hout hlen
  have hbefore := hchain.before_complete_finished hn
  obtain ⟨p, rfl, hp, -⟩ := hchain.exists_last_start hn 0 []
  obtain ⟨-, hfail, -⟩ := State.makeLink_of_truncated hp hout
  have hfinished : ∀ r ∈ before ++ [s.makeLink p], FinishedLink s r := List.forall_mem_append.2
    ⟨fun r hr => (hbefore r hr).2, List.forall_mem_singleton.2 (State.makeLink_finishedLink hp (.inr hout))⟩
  refine ⟨_, (exec_decode_of_ready hs).trans (congrArg _ (decodeBody_of_truncated hn hchain hlen hout)), rfl,
    State.toNat_ofNat_of_le_numWords (s := s) (by omega), rfl, s.status.afterRaise_of_ne nofun, ?_, ?_⟩
  · exact perLinkOf_linkStatOf_of_truncated (fun r hr => (hbefore r hr).1) hout
  · exact perLinkOf_linkRowsOf_toNat hfinished

/-- Settles O47: the link over the bound is not noted, FATAL is set, CURSOR stops at its package. -/
theorem exceededMaxRowsIsReported : Obligations.ExceededMaxRowsIsReported := by
  intro s before last hs hn hchain hout hlen
  have hbefore := hchain.before_complete_finished hn
  have hbody := decodeBody_of_exceeded hn hchain hlen hout
  obtain ⟨p, rfl, -⟩ := hchain.exists_last_start hn 0 []
  have hfail := State.makeLink_fail_of_exceeded hout
  refine ⟨_, (exec_decode_of_ready hs).trans (congrArg _ hbody), rfl,
    State.toNat_ofNat_of_le_numWords (s := s) (by omega), rfl, ?_, ?_, ?_⟩
  · exact congrArg (fun f => { s.status with fatal := f }) (Bool.or_true _)
  · exact perLinkOf_linkStatOf_of_complete fun r hr => (hbefore r hr).1
  · exact perLinkOf_linkRowsOf_toNat fun r hr => (hbefore r hr).2

/-- Settles O52: on a ready core both commands leave what DECODE_BODY leaves, up to POLL's end marker. -/
theorem errorsDeliverNoBlock : Obligations.ErrorsDeliverNoBlock := by
  rintro s t hs (h | ⟨hd, h⟩) hout
  · rw [exec_decode_of_ready hs] at h
    cases h
    exact decodeBody_noBlock hout
  · rw [exec_poll_of_ready hs hd] at h
    cases h
    simpa using decodeBody_noBlock (s := s) (by simpa using hout)

/-- Settles O57. -/
theorem commandsKeepHostInputs : Obligations.CommandsKeepHostInputs := by
  intro i s t h
  obtain ⟨hbytebuf, hperm, hnbytes, hremapEn, hnominal, hmaxRows, hpending, hread, hdraws⟩ := exec_hostInputsKept h
  refine ⟨⟨hbytebuf, hperm, hnbytes, hremapEn, hnominal, hmaxRows, hpending, hread, hdraws⟩, fun hi => ?_⟩
  have hkeeps := exec_bodyKeeps hi h
  exact ⟨hkeeps.words, hkeeps.nwords, hkeeps.permAct, hkeeps.configured⟩

end Sys2Proof.Machine
end

section
/-! SUPPORT. The states that DECODE leaves as they are (R174, R232): a core on which it has just found no
readable header or a corrupt one, and a fatal core. -/

namespace Sys2Proof.Machine

variable {s : State}

/-! ### An error at CURSOR -/

/-- A corrupt header at CURSOR is reported where CURSOR stands: no link is noted, no flag is set (R114, R192). -/
theorem decodeBody_of_corrupt_header (hn : s.cursor.toNat + 4 ≤ s.numWords)
    (hres : field32 s.wordAt (s.cursor.toNat + 2) ≠ 0#32) :
    decodeBody s = (s.noteLinks []).setOutcome .corruptStream := by
  have hchain : LinkChain s s.cursor.toNat ([] ++ [s.makeLink s.cursor.toNat]) := rfl
  obtain ⟨-, hlast⟩ := hchain.of_corrupt_start hn hres
  have hstatus : s.status.afterRaise .corruptStream = s.status := s.status.afterRaise_of_ne nofun
  have hcursor : BitVec.ofNat 32 s.cursor.toNat = s.cursor := (BitVec.ofNat_toNat ..).trans (BitVec.setWidth_eq _)
  rw [decodeBody_of_corrupt hn hchain (by decide) (hlast ▸ rfl), hlast, State.raise, State.noteLinks_status, hstatus,
    hcursor]
  rfl

/-- Where DECODE_BODY, run on what a report at CURSOR has left, makes the same report, DECODE changes nothing there:
what it notes and reports stands in the state already (R174, R232). -/
theorem exec_decode_repeats_report {x : OutcomeCode} (hs : readyToDecode s)
    (hbody : decodeBody ((s.noteLinks []).setOutcome x) = (((s.noteLinks []).setOutcome x).noteLinks []).setOutcome x) :
    exec .decode ((s.noteLinks []).setOutcome x) = .next ((s.noteLinks []).setOutcome x) :=
  (exec_decode_of_ready (s := (s.noteLinks []).setOutcome x) hs).trans (congrArg _ hbody)

/-! ### A fatal core -/

theorem State.setOutcome_self {x : OutcomeCode} (h : s.outcome = x) : s.setOutcome x = s := by
  subst h
  rfl

/-- EXCEEDED_MAX_ROWS comes with FATAL (R194, R199). -/
theorem decodeBody_fatal_of_exceededMaxRows (h : (decodeBody s).outcome = .exceededMaxRows) :
    (decodeBody s).status.fatal = true := by
  rcases decodeBody_cases s with ⟨-, he⟩ | ⟨-, x, p, done, he, -⟩ | ⟨-, p, done, he, -⟩ <;> rw [he] at h ⊢
  · cases h
  · obtain rfl : x = .exceededMaxRows := h
    exact Bool.or_true _
  · cases h

/-- DECODE on a fatal core that has reported EXCEEDED_MAX_ROWS changes nothing (R172, R232). -/
theorem exec_decode_of_fatal_repeats (hc : s.status.configured = true) (hf : s.status.fatal = true)
    (hout : s.outcome = .exceededMaxRows) : exec .decode s = .next s := by
  rw [exec_decode_of_fatal hc hf, State.setOutcome_self hout]

end Sys2Proof.Machine
end

section
/-! The obligations on the external reset, on CONFIGURE as a soft reset, and on the outcomes that repeat. -/

namespace Sys2Proof.Machine

/-- Settles O14: the step serves the reset request, which puts `State.reset` beside the list and the draw index. -/
theorem externalResetRestoresReset : Obligations.ExternalResetRestoresReset := fun _ _ hpending => step_cons hpending

/-- Settles O41: CONFIGURE ends in its soft reset, with the error or with the installed source. -/
theorem configureIsSoftReset : Obligations.ConfigureIsSoftReset := by
  intro s
  refine ⟨configureWith Config.bytebufCap s, rfl, ?_⟩
  obtain ⟨hbytebuf, hperm, hnbytes, hremapEn, hnominal, hmaxRows, -⟩ :=
    configureWith_hostInputsKept Config.bytebufCap s
  rcases configureWith_cases Config.bytebufCap s with ⟨-, he⟩ | ⟨-, -, -, he⟩ <;>
    rw [he] at hbytebuf hperm hnbytes hremapEn hnominal hmaxRows ⊢
  · exact ⟨rfl, rfl, rfl, rfl, rfl, .inr ⟨rfl, rfl⟩, rfl, rfl,
      hremapEn, hnominal, hmaxRows, hnbytes, hbytebuf, hperm⟩
  · exact ⟨rfl, rfl, rfl, rfl, rfl, .inl rfl, rfl, rfl,
      hremapEn, hnominal, hmaxRows, hnbytes, hbytebuf, hperm⟩

/-- Settles O54: the first two outcomes leave what DECODE_BODY reads as it was, the third leaves the core fatal. -/
theorem errorsRepeat : Obligations.ErrorsRepeat := by
  intro s t h hs hout
  rw [exec_decode_of_ready hs] at h
  cases h
  rcases hout with hout | hout | hout
  · obtain ⟨hn, hres⟩ := decodeBody_outcome_corruptStream hout
    rw [decodeBody_of_corrupt_header hn hres]
    exact exec_decode_repeats_report hs (decodeBody_of_corrupt_header hn hres)
  · have hn := decodeBody_outcome_endOfData hout
    rw [decodeBody_of_endOfData hn]
    exact exec_decode_repeats_report hs (decodeBody_of_endOfData hn)
  · have hconfigured := (decodeBody_keeps s).configured.trans hs.1
    exact exec_decode_of_fatal_repeats hconfigured (decodeBody_fatal_of_exceededMaxRows hout) hout

end Sys2Proof.Machine
end
